-- ==== Sys2Proof/Word.lean ====
section
/-! DEFINITION. The word types of the block and the causes of a refused command. -/

namespace Sys2Proof

/-- 8-bit registers, table entries and operands (00_scope R8: u8, and s8 read by `toInt`). -/
abbrev Byte := BitVec 8

/-- 16-bit registers (00_scope R8: u16, and s16 read by `toInt`). -/
abbrev Word := BitVec 16

/-- A command word or a response word (30_encoding R60, R62). -/
abbrev CmdWord := BitVec 32

/-- A voice index, 0 to 3 (00_scope R6; 93_implementation_defined U7). -/
abbrev Voice := Fin 4

/-- Why a command is refused: the four causes of 60_exceptions R141, in the order of their codes. -/
inductive Cause where
  | illegalOpcode
  | reservedField
  | operandRange
  | noteRange
  deriving DecidableEq, Repr

end Sys2Proof
end

