-- ==== Sys2Proof/Syntax.lean ====
section
/-! DEFINITION. The 18 commands, one constructor for each row of the opcode table (30_encoding R63). -/

namespace Sys2Proof

/-- A command with its operands as the fields of its word give them (30_encoding R61, R64). A voice index above
3, a note or depth value above 127 and an operand above its field cannot be written down (R64, last paragraph). -/
inductive Instr where
  | setwave (v : Voice) (id : BitVec 8)
  | setpitchn (v : Voice) (note : BitVec 7)
  | setpitchw (v : Voice) (word : BitVec 16)
  | setenv (v : Voice) (id : BitVec 8)
  | seteratel (v : Voice) (len : BitVec 7)
  | seteratew (v : Voice) (word : BitVec 16)
  | setmod (v : Voice) (value : BitVec 7)
  | setfmod (value : BitVec 7)
  | setcut (cutoff : BitVec 8)
  | setres (resonance : BitVec 8)
  /-- `delta` is read signed (R64). -/
  | setoct (v : Voice) (delta : BitVec 8)
  | trign (v : Voice) (note : BitVec 7)
  | trig (v : Voice)
  | isfree (v : Voice)
  | tick
  | suspend
  | resume
  | rdreg (v : Voice) (r : BitVec 8)
  deriving DecidableEq, Repr

end Sys2Proof
end

