-- ==== Sys2Proof/Decode.lean ====
section
/-! DEFINITION. The command encoding: opcode map, formats, masks, decoder, encoder (30_encoding R60 to R66). -/

namespace Sys2Proof

/-- The seven formats (30_encoding R61). -/
inductive Format where
  | V16 | V8 | V7 | V0 | S8 | S7 | S0
  deriving DecidableEq, Repr

/-- The 18 commands without their operands: the rows of the opcode map (30_encoding R63). -/
inductive Opcode where
  | setwave | setpitchn | setpitchw | setenv | seteratel | seteratew | setmod | setfmod | setcut | setres | setoct
  | trign | trig | isfree | tick | suspend | resume | rdreg
  deriving DecidableEq, Repr

/-- Column `op` of R63. -/
def Opcode.number : Opcode → BitVec 8
  | .setwave => 0x01
  | .setpitchn => 0x02
  | .setpitchw => 0x03
  | .setenv => 0x04
  | .seteratel => 0x05
  | .seteratew => 0x06
  | .setmod => 0x07
  | .setfmod => 0x08
  | .setcut => 0x09
  | .setres => 0x0A
  | .setoct => 0x0B
  | .trign => 0x0C
  | .trig => 0x0D
  | .isfree => 0x0E
  | .tick => 0x0F
  | .suspend => 0x10
  | .resume => 0x11
  | .rdreg => 0x12

/-- Column `format` of R63. -/
def Opcode.format : Opcode → Format
  | .setwave => .V8
  | .setpitchn => .V7
  | .setpitchw => .V16
  | .setenv => .V8
  | .seteratel => .V7
  | .seteratew => .V16
  | .setmod => .V7
  | .setfmod => .S7
  | .setcut => .S8
  | .setres => .S8
  | .setoct => .V8
  | .trign => .V7
  | .trig => .V0
  | .isfree => .V0
  | .tick => .S0
  | .suspend => .S0
  | .resume => .S0
  | .rdreg => .V8

/-- The bits that must match exactly (column `mask` of R61). -/
def Format.mask : Format → CmdWord
  | .V16 => 0xFFFC0000
  | .V8 => 0xFFFCFF00
  | .V7 => 0xFFFCFF80
  | .V0 => 0xFFFCFFFF
  | .S8 => 0xFFFFFF00
  | .S7 => 0xFFFFFF80
  | .S0 => 0xFFFFFFFF

/-- The mask of a command (R63). -/
def Opcode.mask (c : Opcode) : CmdWord := c.format.mask

/-- `match = op << 24` (R61). -/
def Opcode.matchBits (c : Opcode) : CmdWord := c.number.setWidth 32 <<< 24

/-- `w[31:24]` (R60). -/
def opField (w : CmdWord) : BitVec 8 := w.extractLsb' 24 8

/-- `w[17:16]`, the voice (R60). -/
def voiceField (w : CmdWord) : Voice := (w.extractLsb' 16 2).toFin

/-- `w[15:0]` (R60). -/
def immField (w : CmdWord) : BitVec 16 := w.extractLsb' 0 16

/-- `zext_8(imm[7:0])` (R64). -/
def imm8 (w : CmdWord) : BitVec 8 := w.extractLsb' 0 8

/-- `zext_7(imm[6:0])` (R64). -/
def imm7 (w : CmdWord) : BitVec 7 := w.extractLsb' 0 7

/-- The command with opcode number `op`, if `op` is in 0x01 to 0x12 (R65 step 1). -/
def opcodeOf (op : BitVec 8) : Option Opcode :=
  match op.toNat with
  | 0x01 => some .setwave
  | 0x02 => some .setpitchn
  | 0x03 => some .setpitchw
  | 0x04 => some .setenv
  | 0x05 => some .seteratel
  | 0x06 => some .seteratew
  | 0x07 => some .setmod
  | 0x08 => some .setfmod
  | 0x09 => some .setcut
  | 0x0A => some .setres
  | 0x0B => some .setoct
  | 0x0C => some .trign
  | 0x0D => some .trig
  | 0x0E => some .isfree
  | 0x0F => some .tick
  | 0x10 => some .suspend
  | 0x11 => some .resume
  | 0x12 => some .rdreg
  | _ => none

/-- The operands of command `c`, taken from the word as R64 says. -/
def operandsOf (c : Opcode) (w : CmdWord) : Instr :=
  match c with
  | .setwave => .setwave (voiceField w) (imm8 w)
  | .setpitchn => .setpitchn (voiceField w) (imm7 w)
  | .setpitchw => .setpitchw (voiceField w) (immField w)
  | .setenv => .setenv (voiceField w) (imm8 w)
  | .seteratel => .seteratel (voiceField w) (imm7 w)
  | .seteratew => .seteratew (voiceField w) (immField w)
  | .setmod => .setmod (voiceField w) (imm7 w)
  | .setfmod => .setfmod (imm7 w)
  | .setcut => .setcut (imm8 w)
  | .setres => .setres (imm8 w)
  | .setoct => .setoct (voiceField w) (imm8 w)
  | .trign => .trign (voiceField w) (imm7 w)
  | .trig => .trig (voiceField w)
  | .isfree => .isfree (voiceField w)
  | .tick => .tick
  | .suspend => .suspend
  | .resume => .resume
  | .rdreg => .rdreg (voiceField w) (imm8 w)

/-- Steps 1 and 2 of the decoding procedure (R65): the opcode, then the must-be-zero bits. Step 3, the operand
values, is each command's own rule. -/
def decode (w : CmdWord) : Except Cause Instr :=
  match opcodeOf (opField w) with
  | none => .error .illegalOpcode
  | some c => if w &&& c.mask = c.matchBits then .ok (operandsOf c w) else .error .reservedField

/-- The command of an instruction. -/
def Instr.opcode : Instr → Opcode
  | .setwave _ _ => .setwave
  | .setpitchn _ _ => .setpitchn
  | .setpitchw _ _ => .setpitchw
  | .setenv _ _ => .setenv
  | .seteratel _ _ => .seteratel
  | .seteratew _ _ => .seteratew
  | .setmod _ _ => .setmod
  | .setfmod _ => .setfmod
  | .setcut _ => .setcut
  | .setres _ => .setres
  | .setoct _ _ => .setoct
  | .trign _ _ => .trign
  | .trig _ => .trig
  | .isfree _ => .isfree
  | .tick => .tick
  | .suspend => .suspend
  | .resume => .resume
  | .rdreg _ _ => .rdreg

/-- The voice field of an instruction's word; 00 in commands that address no voice (R60). -/
def Instr.voiceBits : Instr → BitVec 2
  | .setwave v _ => BitVec.ofFin v
  | .setpitchn v _ => BitVec.ofFin v
  | .setpitchw v _ => BitVec.ofFin v
  | .setenv v _ => BitVec.ofFin v
  | .seteratel v _ => BitVec.ofFin v
  | .seteratew v _ => BitVec.ofFin v
  | .setmod v _ => BitVec.ofFin v
  | .setfmod _ => 0
  | .setcut _ => 0
  | .setres _ => 0
  | .setoct v _ => BitVec.ofFin v
  | .trign v _ => BitVec.ofFin v
  | .trig v => BitVec.ofFin v
  | .isfree v => BitVec.ofFin v
  | .tick => 0
  | .suspend => 0
  | .resume => 0
  | .rdreg v _ => BitVec.ofFin v

/-- The operand field of an instruction's word, unused high bits 0 (R60, R64). -/
def Instr.immBits : Instr → BitVec 16
  | .setwave _ id => id.setWidth 16
  | .setpitchn _ note => note.setWidth 16
  | .setpitchw _ word => word
  | .setenv _ id => id.setWidth 16
  | .seteratel _ len => len.setWidth 16
  | .seteratew _ word => word
  | .setmod _ value => value.setWidth 16
  | .setfmod value => value.setWidth 16
  | .setcut cutoff => cutoff.setWidth 16
  | .setres resonance => resonance.setWidth 16
  | .setoct _ delta => delta.setWidth 16
  | .trign _ note => note.setWidth 16
  | .trig _ => 0
  | .isfree _ => 0
  | .tick => 0
  | .suspend => 0
  | .resume => 0
  | .rdreg _ r => r.setWidth 16

/-- The word with fields `op`, `rsv = 0`, `v`, `imm` (R60). -/
def assembleFields (op : BitVec 8) (v : BitVec 2) (imm : BitVec 16) : CmdWord := op ++ 0#6 ++ v ++ imm

/-- The word of an instruction: `(op << 24) | (v << 16) | imm` (R68). -/
def encode (i : Instr) : CmdWord := assembleFields i.opcode.number i.voiceBits i.immBits

/-- The command word whose bits are `w`: one 32-bit value, no byte order (20_memory R44; log 10). Bits above
`nbits` are 0. -/
def tableWord (nbits w : Nat) : CmdWord := BitVec.ofNat 32 (w % 2 ^ nbits)

/-- What the decoder reads from a table row's word. -/
def decodeTableWord (nbits w : Nat) : Option Instr :=
  match decode (tableWord nbits w) with
  | .ok i => some i
  | .error _ => none

end Sys2Proof
end

