-- ==== Sys2Proof/Machine/Arith.lean ====
section
/-! DEFINITION. The arithmetic every datapath rule shares: shifts, narrowing on store, byte extraction (00_scope R8, 40_sample_step R88). -/

namespace Sys2Proof.Machine

/-- `x >> k` on a mathematical integer: `floor(x / 2^k)`, for negative `x` too (00_scope R8, R88 item 4). -/
def asr (x : Int) (k : Nat) : Int := x / 2 ^ k

/-- Storing `z` into an 8-bit register keeps `wrap_8(z)` (R88 item 6). -/
def store8 (z : Int) : Byte := BitVec.ofInt 8 z

/-- Storing `z` into a 16-bit register keeps `wrap_16(z)`, which read signed is `swrap_16(z)` (R88 item 6). -/
def store16 (z : Int) : Word := BitVec.ofInt 16 z

/-- "The upper byte" of a 16-bit accumulator: bits 15:8 (R88 item 2, 20_memory R44). -/
def upperByte (x : Word) : Byte := x.extractLsb' 8 8

/-- Bits 14:8 of an envelope accumulator, the index of the envelope ROM (42 R97). -/
def envIndex (x : Word) : BitVec 7 := x.extractLsb' 8 7

/-- Bit 15 of an envelope accumulator: the voice-free bit (10_state R15, 42 R96, R98). -/
def topBit (x : Word) : Bool := x.getLsbD 15

end Sys2Proof.Machine
end

