-- ==== Sys2Proof/Config.lean ====
section
/-! DEFINITION. What is fixed for one block but left open by the spec (ROM contents, sample rate), and what arrives from outside. -/

namespace Sys2Proof

/-- The events of an execution (00_scope R5, 60_exceptions R156). -/
inductive Event where
  /-- The `reset` input is asserted (70_reset_and_hazards R160). -/
  | reset
  /-- A sample tick arrives (40_sample_step R80). -/
  | sample
  /-- The host presents command word `w` (30_encoding R60). -/
  | cmd (w : CmdWord)
  deriving DecidableEq, Repr, Inhabited

/-- The four ROM spaces, by their shapes only (00_scope R7 a to d, 20_memory R40). -/
structure Tables where
  /-- `WAVE : 0..5 × 0..255 → s8`. -/
  wave : Fin 6 → BitVec 8 → Byte
  /-- `ENV : 0..4 × 0..127 → u8`. -/
  env : Fin 5 → BitVec 7 → Byte
  /-- `NOTE : 0..127 → u16`. -/
  note : BitVec 7 → Word
  /-- `LEN : 0..127 → u16`. -/
  len : BitVec 7 → Word
  deriving Inhabited

/-- The ROM contents of this block, a free value: no theorem can see an entry (D22, U14; log 6). -/
opaque Config.tables : Tables

/-- The sample rate in Hz, a free value; no event reads it (00_scope R7 e, D23, U15). That it is a whole number of Hz is
the model's own choice: R7 e gives `FS` no type. DESIGN CHOICE (log 7). -/
opaque Config.fs : Nat

/-- The event that arrives as the `n`-th one nobody placed in the inbox: a free value, because the block
does not fix the order of events (20_memory R47 d, U13; log 3). -/
opaque Config.arrival : Nat → Event

end Sys2Proof
end

