-- ==== Sys2Proof/Machine/State.lean ====
section
/-! DEFINITION. The state of the block (10_state R10 to R30), the reset state (R36), and why a step can stop. -/

namespace Sys2Proof.Machine

/-- Four like things, one for each voice. -/
structure Bank (α : Type) where
  v0 : α
  v1 : α
  v2 : α
  v3 : α
  deriving DecidableEq, Repr

/-- The ten registers of one voice (10_state R11 to R20). -/
structure VoiceRegs where
  /-- `PHASE`, u16 (R11). -/
  phase : Word
  /-- `TW`, u16 (R12). -/
  tw : Word
  /-- `PB`, u16 (R13). -/
  pb : Word
  /-- `AMP`, u8 (R14). -/
  amp : Byte
  /-- `EACC`, u16 (R15). -/
  eacc : Word
  /-- `ERATE`, u16 (R16). -/
  erate : Word
  /-- `MD`, s8 (R17). -/
  md : Byte
  /-- `WSEL`, 3 bits, legal 0 to 5 (R18). -/
  wsel : BitVec 3
  /-- `ESEL`, 3 bits, legal 0 to 4 (R19). -/
  esel : BitVec 3
  /-- `OCTOFF`, s8 (R20). -/
  octoff : Byte
  deriving DecidableEq, Repr

/-- The 52 registers of the block (10_state R10), and three fields of the model's own: `inbox`, `arrivals`, `resp`. -/
structure State where
  /-- The per-voice registers (R11 to R20). -/
  voices : Bank VoiceRegs
  /-- `F[0]`, s16: the first pole and output tap (R21). -/
  f0 : Word
  /-- `F[1]`, s16: the second pole (R21). -/
  f1 : Word
  /-- `F[2]`, s16: the input stage (R21). -/
  f2 : Word
  /-- `CUTOFF`, u8 (R22). -/
  cutoff : Byte
  /-- `RES`, u8 (R23). -/
  res : Byte
  /-- `FMD`, s8 (R24). -/
  fmd : Byte
  /-- `RR`, 2 bits: the voice whose slot the next performed sample step is (R25). -/
  rr : Voice
  /-- `HB`, 1 bit (R26). -/
  hb : Bool
  /-- `SCNT`, u32 (R27). -/
  scnt : BitVec 32
  /-- `EN`, 1 bit (R28). -/
  en : Bool
  /-- `YOUT`, s16 (R29). -/
  yout : Word
  /-- `DAC`, u8 (R30). -/
  dac : Byte
  /-- The model's own: the events still to come, first one first (log 1). -/
  inbox : List Event
  /-- The model's own: how many events were taken from outside with the inbox empty (log 3). -/
  arrivals : Nat
  /-- The model's own: the response of the event just performed, `none` where it returns none (R33; log 2). -/
  resp : Option CmdWord
  deriving DecidableEq, Repr

/-- Why the machine stops. Both stand for ill-formed states only, which no event reaches from reset (10_state
R35); 93_implementation_defined U17 says to give such a table read no meaning. Safe (log 5). -/
inductive Fault where
  /-- The oscillator phase would read `WAVE` with `WSEL[v]` = 6 or 7. Raised by a performed sample step. Safe. -/
  | waveSelector
  /-- The envelope phase would read `ENV` with `ESEL[d]` = 5, 6 or 7. Raised by a performed sample step. Safe. -/
  | envSelector
  deriving DecidableEq, Repr

/-- Why a step has no meaning. -/
inductive Refusal where
  /-- The command has no meaning in this model yet. No arm of `exec` answers it. Safe. -/
  | notModelled (mnemonic : String)
  deriving DecidableEq, Repr

/-- What a step answers. -/
abbrev Result := Host.Outcome State Fault Refusal

/-- A voice's registers after reset (10_state R36). -/
def VoiceRegs.reset : VoiceRegs where
  phase := 0x0000
  tw := 0x0000
  pb := 0x0000
  amp := 0
  eacc := 0x8000
  erate := 0x0000
  md := 0
  wsel := 0
  esel := 0
  octoff := 0

/-- The state after reset (10_state R36, 70 R161). The model's own fields hold nothing (log 8). -/
def State.reset : State where
  voices := ⟨VoiceRegs.reset, VoiceRegs.reset, VoiceRegs.reset, VoiceRegs.reset⟩
  f0 := 0
  f1 := 0
  f2 := 0
  cutoff := 255
  res := 0
  fmd := 0
  rr := 0
  hb := false
  scnt := 0
  en := false
  yout := 0
  dac := 127
  inbox := []
  arrivals := 0
  resp := none

end Sys2Proof.Machine
end

