-- ==== Sys2Proof/Machine/Operands.lean ====
section
/-! DEFINITION. What each operand value stands for (30_encoding R64): default selectors, centred depths, octave offsets, shifted notes. -/

namespace Sys2Proof.Machine

/-- The effective waveform id: an unrecognised id selects sine (46 R120). -/
def waveSelect (id : BitVec 8) : BitVec 3 := if id.toNat ≤ 5 then id.setWidth 3 else 0

/-- The effective envelope id: 0 and every unrecognised id select envelope 0 (46 R123). -/
def envSelect (id : BitVec 8) : BitVec 3 := if 1 ≤ id.toNat ∧ id.toNat ≤ 4 then id.setWidth 3 else 0

/-- `value − 64`, from −64 to +63 (46 R126, R127). -/
def centred (value : BitVec 7) : Byte := store8 ((value.toNat : Int) - 64)

/-- `12 * delta` semitones for a number of octaves from −10 to +10, else no value (46 R130). -/
def octaveOffset (delta : BitVec 8) : Option Byte :=
  if delta.toInt < -10 ∨ delta.toInt > 10 then none else some (store8 (12 * delta.toInt))

/-- The note table index `note + OCTOFF[v]`, if it lies in 0 to 127 (47 R132). -/
def shiftedNote (note : BitVec 7) (octoff : Byte) : Option (BitVec 7) :=
  let n : Int := (note.toNat : Int) + octoff.toInt
  if n < 0 ∨ n > 127 then none else some (BitVec.ofInt 7 n)

end Sys2Proof.Machine
end

