-- ==== Sys2Proof/Machine/Ops.lean ====
section
/-! DEFINITION. The named operations over the registers, the ROM reads, the answers of commands (the error answer among them), and the reset event. -/

namespace Sys2Proof.Machine

/-- The thing of voice `v`. -/
def Bank.get {α : Type} (b : Bank α) : Voice → α
  | 0 => b.v0
  | 1 => b.v1
  | 2 => b.v2
  | 3 => b.v3

/-- The bank with the thing of voice `v` replaced. -/
def Bank.set {α : Type} (b : Bank α) (v : Voice) (x : α) : Bank α :=
  match v with
  | 0 => { b with v0 := x }
  | 1 => { b with v1 := x }
  | 2 => { b with v2 := x }
  | 3 => { b with v3 := x }

/-- The same function on each of the four things. -/
def Bank.map {α β : Type} (f : α → β) (b : Bank α) : Bank β := ⟨f b.v0, f b.v1, f b.v2, f b.v3⟩

/-- The registers of voice `v`. -/
def State.voice (s : State) (v : Voice) : VoiceRegs := s.voices.get v

/-- The state with the registers of voice `v` replaced. -/
def State.setVoice (s : State) (v : Voice) (r : VoiceRegs) : State := { s with voices := s.voices.set v r }

/-- `WAVE[w][i]`; no meaning for a selector above 5 (20_memory R43, U17). -/
def waveRead (T : Tables) (w : BitVec 3) (i : Byte) : Option Byte :=
  if h : w.toNat < 6 then some (T.wave ⟨w.toNat, h⟩ i) else none

/-- `ENV[e][j]`; no meaning for a selector above 4 (20_memory R43, U17). -/
def envRead (T : Tables) (e : BitVec 3) (j : BitVec 7) : Option Byte :=
  if h : e.toNat < 5 then some (T.env ⟨e.toNat, h⟩ j) else none

/-- The response word of a performed command: `ERR = 0`, `CAUSE = 0`, `DATA = data` (30_encoding R62). -/
def okWord (data : Word) : CmdWord := 0#16 ++ data

/-- The code of a cause (60_exceptions R141). -/
def causeCode : Cause → BitVec 3
  | .illegalOpcode => 1
  | .reservedField => 2
  | .operandRange => 3
  | .noteRange => 4

/-- The response word of a refused command: `0x80000000 | (code << 28)` (60_exceptions R141). -/
def errorWord (c : Cause) : CmdWord := 0x80000000#32 ||| ((causeCode c).setWidth 32 <<< 28)

/-- `respond(data)`: the command ends with this response (00_scope R8). -/
def State.respond (s : State) (data : Word) : State := { s with resp := some (okWord data) }

/-- `raise c`: the command ends with the error answer and NO register changes (60_exceptions R141, R144). There
is nothing to save and no return from it (R145): the host sends its next command. -/
def State.raiseError (s : State) (c : Cause) : State := { s with resp := some (errorWord c) }

/-- The event returns no response. -/
def State.silent (s : State) : State := { s with resp := none }

/-- The `RESET` event: every register takes its reset value, whatever it held (70 R160, R161). The events still
to come are the platform's and stay; the event returns no response (log 8). -/
def State.resetRegisters (s : State) : State :=
  { State.reset with inbox := s.inbox, arrivals := s.arrivals }

/-- The 16-bit image of register number `r` of a voice (20_memory R41, numbers 0x00 to 0x09): unsigned
registers zero-extended, `MD` and `OCTOFF` sign-extended. -/
def voiceImage (g : VoiceRegs) (r : Nat) : Option Word :=
  match r with
  | 0x00 => some g.phase
  | 0x01 => some g.tw
  | 0x02 => some g.pb
  | 0x03 => some (g.amp.setWidth 16)
  | 0x04 => some g.eacc
  | 0x05 => some g.erate
  | 0x06 => some (g.md.signExtend 16)
  | 0x07 => some (g.wsel.setWidth 16)
  | 0x08 => some (g.esel.setWidth 16)
  | 0x09 => some (g.octoff.signExtend 16)
  | _ => none

/-- The 16-bit image of shared register number `r` (20_memory R41, numbers 0x10 to 0x1C). -/
def sharedImage (s : State) (r : Nat) : Option Word :=
  match r with
  | 0x10 => some s.f0
  | 0x11 => some s.f1
  | 0x12 => some s.f2
  | 0x13 => some (s.cutoff.setWidth 16)
  | 0x14 => some (s.res.setWidth 16)
  | 0x15 => some (s.fmd.signExtend 16)
  | 0x16 => some (BitVec.ofNat 16 s.rr.val)
  | 0x17 => some ((BitVec.ofBool s.hb).setWidth 16)
  | 0x18 => some (s.scnt.extractLsb' 0 16)
  | 0x19 => some (s.scnt.extractLsb' 16 16)
  | 0x1A => some ((BitVec.ofBool s.en).setWidth 16)
  | 0x1B => some (s.dac.setWidth 16)
  | 0x1C => some s.yout
  | _ => none

/-- `RegRead(v, r)` (20_memory R42): a per-voice number with any voice, a shared number with voice 0 only;
`none` where the pair names no register. -/
def regRead (s : State) (v : Voice) (r : BitVec 8) : Option Word :=
  match voiceImage (s.voice v) r.toNat with
  | some x => some x
  | none => if v = 0 then sharedImage s r.toNat else none

end Sys2Proof.Machine
end

