-- ==== Sys2Proof/Machine/Parameter.lean ====
section
/-! DEFINITION. The eleven parameter commands (46_commands_parameters R120 to R130). -/

namespace Sys2Proof.Machine

/-- `PB[v] <- NOTE[note]`, over given tables (R121). -/
def loadPitchNote (T : Tables) (v : Voice) (note : BitVec 7) (s : State) : State :=
  s.setVoice v { s.voice v with pb := T.note note }

/-- `ERATE[v] <- LEN[len]`, over given tables (R124). -/
def loadRateLength (T : Tables) (v : Voice) (len : BitVec 7) (s : State) : State :=
  s.setVoice v { s.voice v with erate := T.len len }

/-- `SETWAVE v, id` (R120). -/
def execSetwave (v : Voice) (id : BitVec 8) (s : State) : Result :=
  .next ((s.setVoice v { s.voice v with wsel := waveSelect id }).respond 0)

/-- `SETPITCHN v, note` (R121): `PB[v]` only, no octave offset (D19). -/
def execSetpitchn (v : Voice) (note : BitVec 7) (s : State) : Result :=
  .next ((loadPitchNote Config.tables v note s).respond 0)

/-- `SETPITCHW v, word` (R122): `PB[v]` only. -/
def execSetpitchw (v : Voice) (word : BitVec 16) (s : State) : Result :=
  .next ((s.setVoice v { s.voice v with pb := word }).respond 0)

/-- `SETENV v, id` (R123). -/
def execSetenv (v : Voice) (id : BitVec 8) (s : State) : Result :=
  .next ((s.setVoice v { s.voice v with esel := envSelect id }).respond 0)

/-- `SETERATEL v, len` (R124). -/
def execSeteratel (v : Voice) (len : BitVec 7) (s : State) : Result :=
  .next ((loadRateLength Config.tables v len s).respond 0)

/-- `SETERATEW v, word` (R125). -/
def execSeteratew (v : Voice) (word : BitVec 16) (s : State) : Result :=
  .next ((s.setVoice v { s.voice v with erate := word }).respond 0)

/-- `SETMOD v, value` (R126). -/
def execSetmod (v : Voice) (value : BitVec 7) (s : State) : Result :=
  .next ((s.setVoice v { s.voice v with md := centred value }).respond 0)

/-- `SETFMOD value` (R127): stored, read by nothing but `RDREG` (D30). -/
def execSetfmod (value : BitVec 7) (s : State) : Result :=
  .next ({ s with fmd := centred value }.respond 0)

/-- `SETCUT cutoff` (R128). -/
def execSetcut (cutoff : BitVec 8) (s : State) : Result :=
  .next ({ s with cutoff := cutoff }.respond 0)

/-- `SETRES resonance` (R129). -/
def execSetres (resonance : BitVec 8) (s : State) : Result :=
  .next ({ s with res := resonance }.respond 0)

/-- `SETOCT v, delta` (R130): refused outside −10 to +10. -/
def execSetoct (v : Voice) (delta : BitVec 8) (s : State) : Result :=
  match octaveOffset delta with
  | none => .next (s.raiseError .operandRange)
  | some x => .next ((s.setVoice v { s.voice v with octoff := x }).respond 0)

end Sys2Proof.Machine
end

