-- ==== Sys2Proof/Machine/Flags.lean ====
section
/-! DEFINITION. The flags and the output pins: FREE(v), HB, EN and the level outputs (10_state R29, R30, R32; 60_exceptions R147). -/

namespace Sys2Proof.Machine

/-- `FREE(v) = EACC[v][15]`, a view of the state (10_state R32 c, 42 R98). -/
def State.free (s : State) (v : Voice) : Bool := topBit (s.voice v).eacc

/-- `HB` after a sample step of slot `d`: set at the end of voice 3's step, else kept (40 R86). -/
def hbAfter (d : Voice) (hb : Bool) : Bool := if d = 3 then true else hb

/-- The 16-bit image of one bit: `zext_16` (47 R134, R135). -/
def bitWord (b : Bool) : Word := (BitVec.ofBool b).setWidth 16

/-- `VFREE_O[3:0]`, bit `v` is `FREE(v)` (10_state R32). -/
def State.vfreeO (s : State) : BitVec 4 :=
  BitVec.ofBool (s.free 3) ++ BitVec.ofBool (s.free 2) ++ BitVec.ofBool (s.free 1) ++ BitVec.ofBool (s.free 0)

/-- `HB_O` (10_state R32). -/
def State.hbO (s : State) : Bool := s.hb

/-- `DAC_O[7:0]` (10_state R30). -/
def State.dacO (s : State) : Byte := s.dac

/-- `YOUT_O[15:0]` (10_state R29). -/
def State.youtO (s : State) : Word := s.yout

end Sys2Proof.Machine
end

