-- ==== Sys2Proof/Machine/Pitch.lean ====
section
/-! DEFINITION. The pitch-modulation multiplier, sixth phase of the sample step (45_pitch_modulation R114, R115). -/

namespace Sys2Proof.Machine

/-- `q = floor(((pb >> 6) * (e >> 6)) / 128)`, exact (R114). -/
def bendUnit (pb e : Word) : Nat := (pb.toNat / 2 ^ 6) * (e.toNat / 2 ^ 6) / 128

/-- `PitchWord(pb, e, m) = wrap_16(pb + q * m)` (R114). -/
def pitchWord (pb e : Word) (m : Byte) : Word := store16 ((pb.toNat : Int) + (bendUnit pb e : Int) * m.toInt)

/-- `TW[d] <- PitchWord(PB[d], EACC[d], MD[d])`, for free voices too (R115, D34). -/
def pitchStep (d : Voice) (s : State) : State :=
  s.setVoice d { s.voice d with tw := pitchWord (s.voice d).pb (s.voice d).eacc (s.voice d).md }

end Sys2Proof.Machine
end

