-- ==== Sys2Proof/Machine/VoiceStatus.lean ====
section
/-! DEFINITION. The trigger, status, run-control and read commands (47_commands_voice_status R132 to R138). -/

namespace Sys2Proof.Machine

/-- The three writes of `TRIGN` for table index `n`, in order: `PB[v]`, `EACC[v]`, then `TW[v]` from the new
values of both (R132). -/
def triggerAtNote (T : Tables) (v : Voice) (n : BitVec 7) (s : State) : State :=
  let g := { s.voice v with pb := T.note n, eacc := 0 }
  s.setVoice v { g with tw := pitchWord g.pb g.eacc g.md }

/-- `TRIGN v, note` over given tables (R132): refused where the shifted note leaves the table. -/
def trignWith (T : Tables) (v : Voice) (note : BitVec 7) (s : State) : State :=
  match shiftedNote note (s.voice v).octoff with
  | none => s.raiseError .noteRange
  | some n => (triggerAtNote T v n s).respond 0

/-- `TRIGN v, note` (R132). -/
def execTrign (v : Voice) (note : BitVec 7) (s : State) : Result :=
  .next (trignWith Config.tables v note s)

/-- `TRIG v` (R133). -/
def execTrig (v : Voice) (s : State) : Result :=
  .next ((s.setVoice v { s.voice v with eacc := 0, tw := (s.voice v).pb }).respond 0)

/-- `ISFREE v` (R134). -/
def execIsfree (v : Voice) (s : State) : Result :=
  .next (s.respond (bitWord (s.free v)))

/-- `TICK` (R135): read and clear `HB` in one event. -/
def execTick (s : State) : Result :=
  .next ({ s with hb := false }.respond (bitWord s.hb))

/-- `SUSPEND` (R136). -/
def execSuspend (s : State) : Result :=
  .next ({ s with en := false }.respond 0)

/-- `RESUME` (R137). -/
def execResume (s : State) : Result :=
  .next ({ s with en := true }.respond 0)

/-- `RDREG v, r` (R138): refused where `(v, r)` names no register. -/
def execRdreg (v : Voice) (r : BitVec 8) (s : State) : Result :=
  match regRead s v r with
  | some x => .next (s.respond x)
  | none => .next (s.raiseError .operandRange)

end Sys2Proof.Machine
end

