-- ==== Sys2Proof/Machine/Dispatch.lean ====
section
/-! DEFINITION. Which meaning each command has, one arm for each constructor of Instr. -/

namespace Sys2Proof.Machine

def exec (i : Instr) (s : State) : Host.Outcome State Fault Refusal :=
  match i with
  | .setwave v id => Sys2Proof.Machine.execSetwave v id s
  | .setpitchn v note => Sys2Proof.Machine.execSetpitchn v note s
  | .setpitchw v word => Sys2Proof.Machine.execSetpitchw v word s
  | .setenv v id => Sys2Proof.Machine.execSetenv v id s
  | .seteratel v len => Sys2Proof.Machine.execSeteratel v len s
  | .seteratew v word => Sys2Proof.Machine.execSeteratew v word s
  | .setmod v value => Sys2Proof.Machine.execSetmod v value s
  | .setfmod value => Sys2Proof.Machine.execSetfmod value s
  | .setcut cutoff => Sys2Proof.Machine.execSetcut cutoff s
  | .setres resonance => Sys2Proof.Machine.execSetres resonance s
  | .setoct v delta => Sys2Proof.Machine.execSetoct v delta s
  | .trign v note => Sys2Proof.Machine.execTrign v note s
  | .trig v => Sys2Proof.Machine.execTrig v s
  | .isfree v => Sys2Proof.Machine.execIsfree v s
  | .tick => Sys2Proof.Machine.execTick s
  | .suspend => Sys2Proof.Machine.execSuspend s
  | .resume => Sys2Proof.Machine.execResume s
  | .rdreg v r => Sys2Proof.Machine.execRdreg v r s

end Sys2Proof.Machine
end

