-- ==== Sys2Proof/Machine/Envelope.lean ====
section
/-! DEFINITION. The envelope generator, first phase of the sample step (42_envelope_voicefree R95 to R97). -/

namespace Sys2Proof.Machine

/-- One slot of one voice (R96). The test is on bit 15 of the value BEFORE the addition, the table read on bits
14:8 of the value AFTER it, in the crossing slot too (R97, C2). -/
def envSlot (T : Tables) (g : VoiceRegs) : Option VoiceRegs :=
  if topBit g.eacc then some { g with amp := 0 }
  else
    match envRead T g.esel (envIndex (g.eacc + g.erate)) with
    | some a => some { g with eacc := g.eacc + g.erate, amp := a }
    | none => none

/-- `EnvStep(d)`: the slot's voice only (R95). -/
def envStep (T : Tables) (d : Voice) (s : State) : Option State :=
  match envSlot T (s.voice d) with
  | some g => some (s.setVoice d g)
  | none => none

end Sys2Proof.Machine
end

