-- ==== Sys2Proof/Machine/Filter.lean ====
section
/-! DEFINITION. The resonant filter and the output write, fourth and fifth phases of the sample step (44_filter_output R106 to R112). -/

namespace Sys2Proof.Machine

/-- One pole: `(F[i] * (255 − c) + F[i+1] * c) >> 8`, stored in 16 bits (R107). -/
def poleNext (own next : Word) (c : Byte) : Word :=
  store16 (asr (own.toInt * (255 - (c.toNat : Int)) + next.toInt * c.toNat) 8)

/-- The input stage: `mixed − ((F[0] * r) >> 8)`, with the NEW `F[0]`, stored in 16 bits (R107, R108 b). -/
def inputNext (mixed : Int) (f0 : Word) (r : Byte) : Word := store16 (mixed - asr (f0.toInt * r.toNat) 8)

/-- The filter's writes: none in bypass (R106), else pole 0, pole 1, input stage, each pole from OLD values (R107, R108). -/
def filterStep (mixed : Int) (s : State) : State :=
  if s.cutoff = 255 then s
  else
    { s with
      f0 := poleNext s.f0 s.f1 s.cutoff
      f1 := poleNext s.f1 s.f2 s.cutoff
      f2 := inputNext mixed (poleNext s.f0 s.f1 s.cutoff) s.res }

/-- The filter's result `y`: the mixed sample in bypass (R106), else the new `F[0]` (R107). -/
def filterOut (mixed : Int) (s : State) : Int :=
  if s.cutoff = 255 then mixed else (poleNext s.f0 s.f1 s.cutoff).toInt

/-- `Output(y)`: `YOUT <- y` (R111) and `DAC <- wrap_8(127 + y)` (R112). -/
def output (y : Int) (s : State) : State := { s with yout := store16 y, dac := store8 (127 + y) }

end Sys2Proof.Machine
end

