-- ==== Sys2Proof/Machine/Mixer.lean ====
section
/-! DEFINITION. The amplitude mixer, third phase of the sample step (43_mixer R102). -/

namespace Sys2Proof.Machine

/-- A voice's scaled term: exact product of a signed sample and an unsigned amplitude, then `>> 8` (R102). -/
def mixTerm (smp amp : Byte) : Int := asr (smp.toInt * amp.toNat) 8

/-- `Mix(s, AMP)`: four shifts, an exact sum, then `>> 2` (R102). -/
def mix (smp amp : Bank Byte) : Int :=
  asr (mixTerm smp.v0 amp.v0 + mixTerm smp.v1 amp.v1 + mixTerm smp.v2 amp.v2 + mixTerm smp.v3 amp.v3) 2

/-- The four amplitudes (R102: `AMP[d]` as the envelope phase left it). -/
def amplitudes (s : State) : Bank Byte := s.voices.map VoiceRegs.amp

end Sys2Proof.Machine
end

