-- ==== Sys2Proof/Machine/Oscillator.lean ====
section
/-! DEFINITION. The oscillator bank, second phase of the sample step (41_oscillator_bank R90). -/

namespace Sys2Proof.Machine

/-- The new accumulator value of a lane: `wrap_16(PHASE + TW)` (R90). -/
def phaseNext (g : VoiceRegs) : Word := g.phase + g.tw

/-- A lane's sample: the selected waveform at the upper byte of the NEW accumulator value (R90). -/
def laneSample (T : Tables) (g : VoiceRegs) : Option Byte := waveRead T g.wsel (upperByte (phaseNext g))

/-- A lane's registers after its step: only `PHASE` is written (R91). -/
def laneAdvance (g : VoiceRegs) : VoiceRegs := { g with phase := phaseNext g }

/-- The four samples of this step; none where a selector is ill-formed (R90). -/
def oscSamples (T : Tables) (s : State) : Option (Bank Byte) :=
  match laneSample T s.voices.v0, laneSample T s.voices.v1, laneSample T s.voices.v2, laneSample T s.voices.v3 with
  | some a, some b, some c, some d => some ⟨a, b, c, d⟩
  | _, _, _, _ => none

/-- `OscStep()`'s writes: all four accumulators advance, free voices' too (R90, R91). -/
def oscAdvance (s : State) : State := { s with voices := s.voices.map laneAdvance }

end Sys2Proof.Machine
end

