-- ==== Sys2Proof/Machine/Sample.lean ====
section
/-! DEFINITION. The SAMPLE event: the sample step, its seven phases in order, and the sequencer (40_sample_step R80 to R86). -/

namespace Sys2Proof.Machine

/-- `Sched(d)` (R86). -/
def sched (d : Voice) (s : State) : State :=
  { s with rr := d + 1, hb := hbAfter d s.hb, scnt := s.scnt + 1 }

/-- The phases after the oscillators have their samples: `PHASE` writes, mixer, filter, output, pitch
modulation, sequencer, in the order of R80. -/
def finishSample (d : Voice) (smp : Bank Byte) (s : State) : State :=
  let s := oscAdvance s
  let mixed := mix smp (amplitudes s)
  let y := filterOut mixed s
  sched d (pitchStep d (output y (filterStep mixed s)))

/-- The sample step with `EN = 1` (R80), slot `d = RR` (R81). -/
def sampleStep (T : Tables) (s : State) : Result :=
  match envStep T s.rr s with
  | none => .fault .envSelector
  | some s1 =>
    match oscSamples T s1 with
    | none => .fault .waveSelector
    | some smp => .next (finishSample s.rr smp s1)

/-- The `SAMPLE` event: ignored while `EN = 0` (R84), else the sample step. It returns no response (R85; log 2). -/
def sampleEvent (T : Tables) (s : State) : Result :=
  if s.en then sampleStep T s.silent else .next s.silent

end Sys2Proof.Machine
end

