-- ==== Sys2Proof/Machine/Event.lean ====
section
/-! DEFINITION. What one event does, and which event comes next. -/

namespace Sys2Proof.Machine

/-- A `CMD(w)` event: decode, then perform; a word the decoder refuses is answered with its cause (30_encoding R65). -/
def command (w : CmdWord) (s : State) : Result :=
  match decode w with
  | .error c => .next (s.raiseError c)
  | .ok i => exec i s

/-- One atomic event (00_scope R5, 60_exceptions R156). -/
def perform (e : Event) (s : State) : Result :=
  match e with
  | .reset => .next s.resetRegisters
  | .sample => sampleEvent Config.tables s
  | .cmd w => command w s

/-- The event that comes next and the state with it taken: the inbox's first, else whatever arrives (20_memory
R47; log 1, log 3). -/
def takeEvent (s : State) : Event × State :=
  match s.inbox with
  | e :: rest => (e, { s with inbox := rest })
  | [] => (Config.arrival s.arrivals, { s with arrivals := s.arrivals + 1 })

/-- The state with event `e` coming next. -/
def State.withEvent (s : State) (e : Event) : State := { s with inbox := e :: s.inbox }

end Sys2Proof.Machine
end

