-- ==== Sys2Proof/Machine/Step.lean ====
section
/-! DEFINITION. One step of the machine: one event. -/

namespace Sys2Proof.Machine

/-- Take the next event and perform it. -/
def step (s : State) : Host.Outcome State Fault Refusal :=
  perform (takeEvent s).1 (takeEvent s).2

/-- `s` with the command of a table row's word coming next. The block stores no commands (10_state R31): the host
presents one at a time, and this is that presentation (log 1). -/
def State.withFetchWord (s : State) (nbits w : Nat) : State := s.withEvent (.cmd (tableWord nbits w))

end Sys2Proof.Machine
end

