-- ==== Sys2Proof/Machine/HostRecipe.lean ====
section
/-! DEFINITION. What the spec gives the host over the commands: SETPITCHF, patch export and import, the SCNT read (30_encoding R72, R73; 20_memory R53). -/

namespace Sys2Proof.Machine

/-- `SETPITCHF v, f` for any non-negative real `f` at sample rate `fs`: `i` is what it expands to, that is
`SETPITCHW v, wrap_16(n)` for the `n` that is `floor(f * 65536 / fs)` (30_encoding R72). -/
def SetpitchfExpands (fs : ℝ) (v : Voice) (f : ℝ) (i : Instr) : Prop :=
  ∃ n : Nat, (n : ℝ) ≤ f * 65536 / fs ∧ f * 65536 / fs < n + 1 ∧ i = .setpitchw v (BitVec.ofNat 16 n)

/-- `SETPITCHF v, f` as the assembler computes it, for the frequency `num / den` Hz at sample rate `fs`: it expands to
`SETPITCHW v, wrap_16(floor(f * 65536 / FS))` (30_encoding R72). A fraction for `f` and a whole `fs`
are the model's choice (log 7); it agrees with `SetpitchfExpands`. -/
def setpitchfAt (fs : Nat) (v : Voice) (num den : Nat) : Instr :=
  .setpitchw v (BitVec.ofNat 16 (num * 65536 / (den * fs)))

/-- `SETPITCHF` at this block's sample rate (R72). -/
def setpitchf (v : Voice) (num den : Nat) : Instr := setpitchfAt Config.fs v num den

/-- `DATA`, the low half of a response word (30_encoding R62). -/
def dataOf (w : CmdWord) : Word := w.extractLsb' 0 16

/-- A host conversation with nothing in between: the commands in order, the data of each response, the state after. -/
def converse : List Instr → State → List Word × State
  | [], s => ([], s)
  | i :: is, s =>
    match exec i s with
    | .next t => ((match t.resp with | some w => dataOf w | none => 0) :: (converse is t).1, (converse is t).2)
    | .fault _ => ([], s)
    | .refused _ => ([], s)

/-- One item for each voice, in order. -/
def perVoice {α : Type} (f : Voice → α) : List α := [f 0, f 1, f 2, f 3]

/-- The reads of a patch export, in MS's field order (R73). R73 lists 23 of them and calls them 22: the list is followed (log 13). -/
def patchReads : List Instr :=
  List.flatten
    [perVoice fun v => Instr.rdreg v 0x06#8, [Instr.rdreg 0 0x15#8], perVoice fun v => Instr.rdreg v 0x07#8,
     perVoice fun v => Instr.rdreg v 0x08#8, perVoice fun v => Instr.rdreg v 0x05#8,
     perVoice fun v => Instr.rdreg v 0x09#8, [Instr.rdreg 0 0x13#8, Instr.rdreg 0 0x14#8]]

/-- The write that puts a patch value back, for each read in the same order (R73). For a value no export gives, R73 is
silent and the model keeps the low bits that fit the operand field and rounds `octoff / 12` down. DESIGN CHOICE (log 15). -/
def patchWriters : List (Word → Instr) :=
  List.flatten
    [perVoice fun v x => Instr.setmod v (BitVec.setWidth 7 (x + 64#16)),
     [fun x => Instr.setfmod (BitVec.setWidth 7 (x + 64#16))],
     perVoice fun v x => Instr.setwave v (BitVec.setWidth 8 x),
     perVoice fun v x => Instr.setenv v (BitVec.setWidth 8 x),
     perVoice fun v x => Instr.seteratew v x,
     perVoice fun v x => Instr.setoct v (BitVec.ofInt 8 (BitVec.toInt x / 12)),
     [fun x => Instr.setcut (BitVec.setWidth 8 x), fun x => Instr.setres (BitVec.setWidth 8 x)]]

/-- The commands of a patch import, bracketed by `SUSPEND` and `RESUME`; none where the size is not the patch's,
which is the host's own check (R73). -/
def patchImport (values : List Word) : Option (List Instr) :=
  if values.length = patchReads.length then
    some (.suspend :: List.zipWith (fun f x => f x) patchWriters values ++ [.resume])
  else none

/-- The reads of the 32-bit counter: high, low, high again (20_memory R53). -/
def scntReads : List Instr := [.rdreg 0 0x19, .rdreg 0 0x18, .rdreg 0 0x19]

/-- The counter from the three answers, or `none`: read again while the two high halves differ (20_memory R53). -/
def scntOf (high low high' : Word) : Option (BitVec 32) := if high = high' then some (high ++ low) else none

end Sys2Proof.Machine
end

