-- ==== Sys2Proof/Machine/Assembler.lean ====
section
/-! DEFINITION. The assembler notation and the schedule scripts (30_encoding R68, R72; log 12). -/

namespace Sys2Proof.Machine

/-- The words between the separators. -/
def splitText (sep : Char → Bool) : List Char → List (List Char)
  | [] => [[]]
  | c :: cs =>
    if sep c then [] :: splitText sep cs
    else
      match splitText sep cs with
      | [] => [[c]]
      | w :: ws => (c :: w) :: ws

/-- Blank characters between the parts of a statement. -/
def isBlank (c : Char) : Bool := c == ' ' || c == '\t' || c == '\r'

/-- The text without blanks at its ends. -/
def trimText (cs : List Char) : List Char := ((cs.dropWhile isBlank).reverse.dropWhile isBlank).reverse

/-- The value of a digit in base 10 or 16. -/
def digitValue (base : Nat) (c : Char) : Option Nat :=
  let n := c.toNat
  let d := if 48 ≤ n ∧ n ≤ 57 then n - 48 else if 65 ≤ n ∧ n ≤ 70 then n - 55 else if 97 ≤ n ∧ n ≤ 102 then n - 87 else 16
  if d < base then some d else none

/-- The number a list of digits spells, after the digits of `acc`. -/
def digitsFrom (base : Nat) : List Char → Nat → Option Nat
  | [], acc => some acc
  | c :: cs, acc =>
    match digitValue base c with
    | some d => digitsFrom base cs (acc * base + d)
    | none => none

/-- A non-empty number in a base. -/
def digits (base : Nat) (cs : List Char) : Option Nat := if cs.isEmpty then none else digitsFrom base cs 0

/-- A number: decimal, or hexadecimal with the prefix `0x` (R68). -/
def numberText (cs : List Char) : Option Nat :=
  match cs with
  | '0' :: 'x' :: rest => digits 16 rest
  | _ => digits 10 cs

/-- A number that may carry a sign (R68: `SETOCT`'s operand). -/
def signedText (cs : List Char) : Option Int :=
  match cs with
  | '-' :: rest => (numberText rest).map fun n => -(n : Int)
  | '−' :: rest => (numberText rest).map fun n => -(n : Int)
  | '+' :: rest => (numberText rest).map fun n => (n : Int)
  | _ => (numberText cs).map fun n => (n : Int)

/-- A frequency as numerator and denominator (R72): a number as R68 writes one, or a decimal with a fraction, which is
the model's choice. DESIGN CHOICE (log 7). -/
def frequencyText (cs : List Char) : Option (Nat × Nat) :=
  match splitText (· == '.') cs with
  | [a] => (numberText a).map fun n => (n, 1)
  | [a, b] =>
    match digits 10 a, digits 10 b with
    | some n, some m => some (n * 10 ^ b.length + m, 10 ^ b.length)
    | _, _ => none
  | _ => none

/-- The voice: one decimal digit 0 to 3 (R68). -/
def voiceText : List Char → Option (BitVec 2)
  | ['0'] => some 0
  | ['1'] => some 1
  | ['2'] => some 2
  | ['3'] => some 3
  | _ => none

/-- How many values the operand field of a format has (R61). -/
def operandLimit : Format → Nat
  | .V16 => 65536
  | .V8 => 256
  | .S8 => 256
  | .V7 => 128
  | .S7 => 128
  | .V0 => 1
  | .S0 => 1

/-- An unsigned operand; refused where it does not fit the format's field (R68). -/
def numberOperand (f : Format) (cs : List Char) : Option (BitVec 16) :=
  match numberText cs with
  | some n => if n < operandLimit f then some (BitVec.ofNat 16 n) else none
  | none => none

/-- `SETOCT`'s operand, which may carry a sign: its low 8 bits (R68, R64). -/
def octaveOperand (cs : List Char) : Option (BitVec 16) :=
  match signedText cs with
  | some z => if -128 ≤ z ∧ z ≤ 127 then some ((BitVec.ofInt 8 z).setWidth 16) else none
  | none => none

/-- The operand of command `c` as the low bits of `imm` (R68, R64). -/
def operandText (c : Opcode) (cs : List Char) : Option (BitVec 16) :=
  if c = .setoct then octaveOperand cs else numberOperand c.format cs

/-- The word of a command with a voice and an operand. -/
def voiceOperandWord (c : Opcode) (v x : List Char) : Option CmdWord :=
  match voiceText v, operandText c x with
  | some v, some x => some (assembleFields c.number v x)
  | _, _ => none

/-- The word of a command with a voice only. -/
def voiceWord (c : Opcode) (v : List Char) : Option CmdWord :=
  (voiceText v).map fun v => assembleFields c.number v 0

/-- The word of a command with an operand only. -/
def operandWord (c : Opcode) (x : List Char) : Option CmdWord :=
  (operandText c x).map fun x => assembleFields c.number 0 x

/-- The word of a statement: `(op << 24) | (v << 16) | imm`, the voice first for V formats (R68). -/
def statementWord (c : Opcode) (operands : List (List Char)) : Option CmdWord :=
  match c.format, operands with
  | .V16, [v, x] => voiceOperandWord c v x
  | .V8, [v, x] => voiceOperandWord c v x
  | .V7, [v, x] => voiceOperandWord c v x
  | .V0, [v] => voiceWord c v
  | .S8, [x] => operandWord c x
  | .S7, [x] => operandWord c x
  | .S0, [] => some (assembleFields c.number 0 0)
  | _, _ => none

/-- The 18 mnemonics (R63). -/
def mnemonics : List (List Char × Opcode) :=
  [("SETWAVE".toList, .setwave), ("SETPITCHN".toList, .setpitchn), ("SETPITCHW".toList, .setpitchw),
   ("SETENV".toList, .setenv), ("SETERATEL".toList, .seteratel), ("SETERATEW".toList, .seteratew),
   ("SETMOD".toList, .setmod), ("SETFMOD".toList, .setfmod), ("SETCUT".toList, .setcut), ("SETRES".toList, .setres),
   ("SETOCT".toList, .setoct), ("TRIGN".toList, .trign), ("TRIG".toList, .trig), ("ISFREE".toList, .isfree),
   ("TICK".toList, .tick), ("SUSPEND".toList, .suspend), ("RESUME".toList, .resume), ("RDREG".toList, .rdreg)]

/-- The operands of a statement, separated by commas. -/
def operandTexts (cs : List Char) : List (List Char) :=
  if (trimText cs).isEmpty then [] else (splitText (· == ',') cs).map trimText

/-- The events a statement or directive stands for, given its first word and the rest of its line (R68, R72). -/
def statementEvents (fs : Nat) (name : List Char) (operands : List (List Char)) : Option (List Event) :=
  if name = "SAMPLE".toList then
    match operands with
    | [n] => match numberText n with
      | some n => if 1 ≤ n then some (List.replicate n .sample) else none
      | none => none
    | _ => none
  else if name = "RESET".toList then
    if operands.isEmpty then some [.reset] else none
  else if name = "SETPITCHF".toList then
    match operands with
    | [v, f] => match voiceText v, frequencyText f with
      | some v, some (num, den) => some [.cmd (encode (setpitchfAt fs v.toFin num den))]
      | _, _ => none
    | _ => none
  else
    match mnemonics.lookup name with
    | some c => (statementWord c operands).map fun w => [.cmd w]
    | none => none

/-- One line of a script: a comment runs from `;` to the end (R68). A line with nothing else stands for no event, on
which R68 is silent. DESIGN CHOICE (log 12). -/
def assembleLine (fs : Nat) (line : List Char) : Option (List Event) :=
  let body := trimText (line.takeWhile (· != ';'))
  if body.isEmpty then some []
  else
    let name := body.takeWhile fun c => !isBlank c
    statementEvents fs name (operandTexts (body.drop name.length))

/-- The events of a list of lines, in order (R68). One refused statement refuses the whole script; R68 says only that
the statement is refused. DESIGN CHOICE (log 12). -/
def assembleLines (fs : Nat) : List (List Char) → Option (List Event)
  | [] => some []
  | l :: ls =>
    match assembleLine fs l, assembleLines fs ls with
    | some a, some b => some (a ++ b)
    | _, _ => none

/-- A script: one explicit execution order (R68, 20_memory R47). -/
def assembleScript (fs : Nat) (text : List Char) : Option (List Event) :=
  assembleLines fs (splitText (· == '\n') text)

end Sys2Proof.Machine
end

