-- ==== Sys2Proof/WellFormed.lean ====
section
/-! DEFINITION. Which commands have legal operand values (the column "legal values" of 30_encoding R64), as far as the word alone decides it. -/

namespace Sys2Proof

/-- `SETOCT`'s operand is a number of octaves from −10 to +10 (30_encoding R64, 46 R130). -/
def octaveLegal (delta : BitVec 8) : Bool := decide (-10 ≤ delta.toInt ∧ delta.toInt ≤ 10)

/-- `(v, r)` names a register: a per-voice number with any voice, a shared number with voice 0 (20_memory R41). -/
def registerNamed (v : Voice) (r : BitVec 8) : Bool :=
  decide (r.toNat ≤ 0x09 ∨ (0x10 ≤ r.toNat ∧ r.toNat ≤ 0x1C ∧ v = 0))

/-- The operand values are legal, as far as the word decides it (30_encoding R65 step 3; `TRIGN`'s check
reads the state and is not one of these). -/
def Instr.wellFormed : Instr → Bool
  | .setwave _ _ => true
  | .setpitchn _ _ => true
  | .setpitchw _ _ => true
  | .setenv _ _ => true
  | .seteratel _ _ => true
  | .seteratew _ _ => true
  | .setmod _ _ => true
  | .setfmod _ => true
  | .setcut _ => true
  | .setres _ => true
  | .setoct _ delta => octaveLegal delta
  | .trign _ _ => true
  | .trig _ => true
  | .isfree _ => true
  | .tick => true
  | .suspend => true
  | .resume => true
  | .rdreg v r => registerNamed v r

end Sys2Proof
end

