-- ==== Sys2Proof/Safety.lean ====
section
/-! DEFINITION. The terms claims use: the invariant of reachable states, the 52 registers by name, which event may write which register, and refused answers. -/

namespace Sys2Proof.Machine

/-- The octave offsets a register can hold: multiples of 12 from −120 to +120 (10_state R35). -/
abbrev octoffLegal (x : Byte) : Prop := x.toInt % 12 = 0 ∧ -120 ≤ x.toInt ∧ x.toInt ≤ 120

/-- `−64 ≤ m ≤ 63` (10_state R35). -/
abbrev depthLegal (m : Byte) : Prop := -64 ≤ m.toInt ∧ m.toInt ≤ 63

/-- The bound on a filter accumulator (10_state R35, 44 R110). -/
abbrev filterBound (f : Word) : Prop := -17000 ≤ f.toInt ∧ f.toInt ≤ 17000

/-- The selectors name tables that exist (10_state R18, R19); without it a performed sample step may read a table that is not there. -/
abbrev State.selectorsLegal (s : State) : Prop :=
  ∀ v : Voice, (s.voice v).wsel.toNat ≤ 5 ∧ (s.voice v).esel.toNat ≤ 4

/-- What holds in every state reached from reset (10_state R35; 40 R86 for the last field). -/
structure State.Inv (s : State) : Prop where
  selectors : s.selectorsLegal
  depths : ∀ v : Voice, depthLegal (s.voice v).md
  filterDepth : depthLegal s.fmd
  octaves : ∀ v : Voice, octoffLegal (s.voice v).octoff
  filter0 : filterBound s.f0
  filter1 : filterBound s.f1
  filter2 : filterBound s.f2
  dacFollowsYout : s.dac = store8 (127 + s.yout.toInt)
  slotFollowsCount : s.rr.val = s.scnt.toNat % 4

/-- The registers of the block by name (10_state R10): 52 of them. -/
inductive Reg where
  | phase (v : Voice) | tw (v : Voice) | pb (v : Voice) | amp (v : Voice) | eacc (v : Voice) | erate (v : Voice)
  | md (v : Voice) | wsel (v : Voice) | esel (v : Voice) | octoff (v : Voice)
  | f0 | f1 | f2 | cutoff | res | fmd | rr | hb | scnt | en | yout | dac
  deriving DecidableEq, Repr

/-- The bits a register holds, as an unsigned number (at most 32 bits wide, 10_state R11 to R30). -/
def State.reg (s : State) : Reg → Nat
  | .phase v => (s.voice v).phase.toNat
  | .tw v => (s.voice v).tw.toNat
  | .pb v => (s.voice v).pb.toNat
  | .amp v => (s.voice v).amp.toNat
  | .eacc v => (s.voice v).eacc.toNat
  | .erate v => (s.voice v).erate.toNat
  | .md v => (s.voice v).md.toNat
  | .wsel v => (s.voice v).wsel.toNat
  | .esel v => (s.voice v).esel.toNat
  | .octoff v => (s.voice v).octoff.toNat
  | .f0 => s.f0.toNat
  | .f1 => s.f1.toNat
  | .f2 => s.f2.toNat
  | .cutoff => s.cutoff.toNat
  | .res => s.res.toNat
  | .fmd => s.fmd.toNat
  | .rr => s.rr.val
  | .hb => s.hb.toNat
  | .scnt => s.scnt.toNat
  | .en => s.en.toNat
  | .yout => s.yout.toNat
  | .dac => s.dac.toNat

/-- The registers a command may write: the command rows of 20_memory R52. -/
def mayWrite : Instr → List Reg
  | .setwave v _ => [.wsel v]
  | .setpitchn v _ => [.pb v]
  | .setpitchw v _ => [.pb v]
  | .setenv v _ => [.esel v]
  | .seteratel v _ => [.erate v]
  | .seteratew v _ => [.erate v]
  | .setmod v _ => [.md v]
  | .setfmod _ => [.fmd]
  | .setcut _ => [.cutoff]
  | .setres _ => [.res]
  | .setoct v _ => [.octoff v]
  | .trign v _ => [.pb v, .eacc v, .tw v]
  | .trig v => [.eacc v, .tw v]
  | .isfree _ => []
  | .tick => [.hb]
  | .suspend => [.en]
  | .resume => [.en]
  | .rdreg _ _ => []

/-- The registers a `SAMPLE` event may write in a given state: the `SAMPLE` rows of 20_memory R52. -/
def sampleMayWrite (s : State) : List Reg :=
  if s.en then
    List.append
      [.eacc s.rr, .amp s.rr, .phase 0, .phase 1, .phase 2, .phase 3, .yout, .dac, .tw s.rr, .rr, .hb, .scnt]
      (if s.cutoff = 255 then [] else [.f0, .f1, .f2])
  else []

/-- A response word with `ERR = 1` (30_encoding R62). -/
def refusedAnswer (w : CmdWord) : Bool := w.getLsbD 31

/-- The last event was not a refused command: what a claim about a host program may assume of each event (U1). -/
def State.answeredWell (s : State) : Bool :=
  match s.resp with
  | some w => !refusedAnswer w
  | none => true

end Sys2Proof.Machine
end

