-- ==== Sys2Proof/Certificates/Slice0/Obligations.lean ====
section
/-! DEFINITION. The statements for the provers. Each docstring names the rule of the spec it formalises. -/

open Sys2Proof Sys2Proof.Machine

/-! ### Reset and the order of events -/

/-- 10_state R36, the table of reset values. -/
def Obligations.RegistersAfterReset : Prop :=
  (∀ v : Voice,
    State.reset.reg (.phase v) = 0x0000 ∧ State.reset.reg (.tw v) = 0x0000 ∧ State.reset.reg (.pb v) = 0x0000 ∧
    State.reset.reg (.amp v) = 0 ∧ State.reset.reg (.eacc v) = 0x8000 ∧ State.reset.reg (.erate v) = 0x0000 ∧
    State.reset.reg (.md v) = 0 ∧ State.reset.reg (.wsel v) = 0 ∧ State.reset.reg (.esel v) = 0 ∧
    State.reset.reg (.octoff v) = 0) ∧
  State.reset.reg .f0 = 0 ∧ State.reset.reg .f1 = 0 ∧ State.reset.reg .f2 = 0 ∧
  State.reset.reg .cutoff = 255 ∧ State.reset.reg .res = 0 ∧ State.reset.reg .fmd = 0 ∧
  State.reset.reg .rr = 0 ∧ State.reset.reg .hb = 0 ∧ State.reset.reg .scnt = 0 ∧ State.reset.reg .en = 0 ∧
  State.reset.reg .yout = 0 ∧ State.reset.reg .dac = 127

/-- 70_reset_and_hazards R160: the reset event in any state, and no command that resets a part. -/
def Obligations.ResetEventRestoresEveryRegister : Prop :=
  (∀ s : State, ∃ t, perform .reset s = .next t ∧ (∀ r : Reg, t.reg r = State.reset.reg r) ∧ t.resp = none) ∧
  (∀ (i : Instr) (s t : State), exec i s = .next t →
    (∀ v : Voice, t.reg (.phase v) = s.reg (.phase v)) ∧
    t.reg .f0 = s.reg .f0 ∧ t.reg .f1 = s.reg .f1 ∧ t.reg .f2 = s.reg .f2 ∧
    t.reg .scnt = s.reg .scnt ∧ t.reg .rr = s.reg .rr)

/-- 10_state section 5 (R29, R30), section 7 (R32) and 70 section 1 (R161): the outputs show the state, and what they
show after reset. -/
def Obligations.OutputPinsShowState : Prop :=
  (∀ (s : State) (v : Voice), s.vfreeO.getLsbD v.val = (s.voice v).eacc.getLsbD 15) ∧
  (∀ s : State, s.hbO = s.hb ∧ s.dacO = s.dac ∧ s.youtO = s.yout) ∧
  State.reset.vfreeO = 0b1111#4 ∧ State.reset.hbO = false ∧ State.reset.dacO = 127#8 ∧ State.reset.youtO = 0#16

/-- The model's choice (log 1, log 3), after 20_memory section 7: a step performs the first placed event; with
nothing placed it performs whatever arrives, which is free. -/
def Obligations.NextEventIsPlacedOrArrives : Prop :=
  ∀ s : State,
    (∀ e rest, s.inbox = e :: rest → step s = perform e { s with inbox := rest }) ∧
    (s.inbox = [] → step s = perform (Config.arrival s.arrivals) { s with arrivals := s.arrivals + 1 })

/-- A step runs the decoded command: 30_encoding section 4, with the model's inbox as the port (log 1). -/
def Obligations.StepRunsTheDecodedCommand : Prop :=
  ∀ (s : State) (w : CmdWord) (rest : List Event) (i : Instr),
    s.inbox = .cmd w :: rest → decode w = .ok i → step s = exec i { s with inbox := rest }

/-- A table word is the next command (log 1): the step after `withFetchWord` performs exactly it. -/
def Obligations.FetchedWordIsNextCommand : Prop :=
  ∀ (s : State) (nbits w : Nat), step (s.withFetchWord nbits w) = command (tableWord nbits w) s

/-! ### Encoding -/

/-- 30_encoding R63: opcode, format, match and mask of the 18 commands, and the unassigned opcodes. -/
def Obligations.OpcodeMapAsListed : Prop :=
  ([Opcode.setwave, .setpitchn, .setpitchw, .setenv, .seteratel, .seteratew, .setmod, .setfmod, .setcut, .setres,
    .setoct, .trign, .trig, .isfree, .tick, .suspend, .resume, .rdreg].map fun c =>
      (c.number, c.format, c.matchBits, c.mask)) =
    [(0x01#8, .V8, 0x01000000#32, 0xFFFCFF00#32), (0x02#8, .V7, 0x02000000#32, 0xFFFCFF80#32),
     (0x03#8, .V16, 0x03000000#32, 0xFFFC0000#32), (0x04#8, .V8, 0x04000000#32, 0xFFFCFF00#32),
     (0x05#8, .V7, 0x05000000#32, 0xFFFCFF80#32), (0x06#8, .V16, 0x06000000#32, 0xFFFC0000#32),
     (0x07#8, .V7, 0x07000000#32, 0xFFFCFF80#32), (0x08#8, .S7, 0x08000000#32, 0xFFFFFF80#32),
     (0x09#8, .S8, 0x09000000#32, 0xFFFFFF00#32), (0x0A#8, .S8, 0x0A000000#32, 0xFFFFFF00#32),
     (0x0B#8, .V8, 0x0B000000#32, 0xFFFCFF00#32), (0x0C#8, .V7, 0x0C000000#32, 0xFFFCFF80#32),
     (0x0D#8, .V0, 0x0D000000#32, 0xFFFCFFFF#32), (0x0E#8, .V0, 0x0E000000#32, 0xFFFCFFFF#32),
     (0x0F#8, .S0, 0x0F000000#32, 0xFFFFFFFF#32), (0x10#8, .S0, 0x10000000#32, 0xFFFFFFFF#32),
     (0x11#8, .S0, 0x11000000#32, 0xFFFFFFFF#32), (0x12#8, .V8, 0x12000000#32, 0xFFFCFF00#32)] ∧
  ∀ op : BitVec 8, opcodeOf op = none ↔ (op.toNat = 0x00 ∨ 0x13 ≤ op.toNat)

/-- 30_encoding R61: the masks of the formats, `match = op << 24`, and what spells a command. -/
def Obligations.WordSpellsCommandOnMaskMatch : Prop :=
  (∀ c : Opcode, c.mask = match c with
    | .setpitchw => 0xFFFC0000#32 | .seteratew => 0xFFFC0000#32
    | .setwave => 0xFFFCFF00#32 | .setenv => 0xFFFCFF00#32 | .setoct => 0xFFFCFF00#32 | .rdreg => 0xFFFCFF00#32
    | .setpitchn => 0xFFFCFF80#32 | .seteratel => 0xFFFCFF80#32 | .setmod => 0xFFFCFF80#32 | .trign => 0xFFFCFF80#32
    | .trig => 0xFFFCFFFF#32 | .isfree => 0xFFFCFFFF#32
    | .setcut => 0xFFFFFF00#32 | .setres => 0xFFFFFF00#32
    | .setfmod => 0xFFFFFF80#32
    | .tick => 0xFFFFFFFF#32 | .suspend => 0xFFFFFFFF#32 | .resume => 0xFFFFFFFF#32) ∧
  (∀ c : Opcode, c.matchBits.toNat = c.number.toNat * 2 ^ 24) ∧
  (∀ (c : Opcode) (w : CmdWord), w &&& c.mask = c.matchBits ↔ ∃ i, decode w = .ok i ∧ i.opcode = c)

/-- 30_encoding section 1 (R60, R61), section 2 (R63) and section 3 (R64): which bits of the word the voice and each
operand are, and the one word of each command without operands. -/
def Obligations.OperandsTakenFromFields : Prop :=
  ∀ (w : CmdWord) (i : Instr), decode w = .ok i →
    match i with
    | .setwave v id => v.val = w.toNat / 2 ^ 16 % 4 ∧ id.toNat = w.toNat % 2 ^ 8
    | .setpitchn v note => v.val = w.toNat / 2 ^ 16 % 4 ∧ note.toNat = w.toNat % 2 ^ 7
    | .setpitchw v word => v.val = w.toNat / 2 ^ 16 % 4 ∧ word.toNat = w.toNat % 2 ^ 16
    | .setenv v id => v.val = w.toNat / 2 ^ 16 % 4 ∧ id.toNat = w.toNat % 2 ^ 8
    | .seteratel v len => v.val = w.toNat / 2 ^ 16 % 4 ∧ len.toNat = w.toNat % 2 ^ 7
    | .seteratew v word => v.val = w.toNat / 2 ^ 16 % 4 ∧ word.toNat = w.toNat % 2 ^ 16
    | .setmod v value => v.val = w.toNat / 2 ^ 16 % 4 ∧ value.toNat = w.toNat % 2 ^ 7
    | .setfmod value => value.toNat = w.toNat % 2 ^ 7
    | .setcut cutoff => cutoff.toNat = w.toNat % 2 ^ 8
    | .setres resonance => resonance.toNat = w.toNat % 2 ^ 8
    | .setoct v delta => v.val = w.toNat / 2 ^ 16 % 4 ∧ delta.toNat = w.toNat % 2 ^ 8
    | .trign v note => v.val = w.toNat / 2 ^ 16 % 4 ∧ note.toNat = w.toNat % 2 ^ 7
    | .trig v => v.val = w.toNat / 2 ^ 16 % 4
    | .isfree v => v.val = w.toNat / 2 ^ 16 % 4
    | .tick => w = 0x0F000000#32
    | .suspend => w = 0x10000000#32
    | .resume => w = 0x11000000#32
    | .rdreg v r => v.val = w.toNat / 2 ^ 16 % 4 ∧ r.toNat = w.toNat % 2 ^ 8

/-- 30_encoding R65: the checks in their order, with the answers and the effect. -/
def Obligations.DecodingChecksInOrder : Prop :=
  ∀ (w : CmdWord) (s : State),
    ((w.extractLsb' 24 8 = 0x00#8 ∨ 0x13 ≤ (w.extractLsb' 24 8).toNat) →
      command w s = .next { s with resp := some 0x90000000#32 }) ∧
    (∀ c : Opcode, w.extractLsb' 24 8 = c.number → w &&& c.mask ≠ c.matchBits →
      command w s = .next { s with resp := some 0xA0000000#32 }) ∧
    (∀ c : Opcode, w &&& c.mask = c.matchBits → command w s = exec (operandsOf c w) s) ∧
    (∀ (v : Voice) (delta : BitVec 8), (delta.toInt < -10 ∨ delta.toInt > 10) →
      exec (.setoct v delta) s = .next { s with resp := some 0xB0000000#32 }) ∧
    (∀ (v : Voice) (r : BitVec 8), ¬ (r.toNat ≤ 0x09 ∨ (0x10 ≤ r.toNat ∧ r.toNat ≤ 0x1C ∧ v = 0)) →
      exec (.rdreg v r) s = .next { s with resp := some 0xB0000000#32 }) ∧
    (∀ (v : Voice) (note : BitVec 7),
      ((note.toNat : Int) + (s.voice v).octoff.toInt < 0 ∨ (note.toNat : Int) + (s.voice v).octoff.toInt > 127) →
      exec (.trign v note) s = .next { s with resp := some 0xC0000000#32 })

/-- 60_exceptions R141: an error answer is one of four, for its cause, and changes no register. -/
def Obligations.RefusedCommandAnswersItsCause : Prop :=
  ∀ (w a : CmdWord) (s t : State), command w s = .next t → t.resp = some a → refusedAnswer a = true →
    t = { s with resp := some a } ∧
    ((a = 0x90000000#32 ∧ (w.extractLsb' 24 8 = 0x00#8 ∨ 0x13 ≤ (w.extractLsb' 24 8).toNat)) ∨
     (a = 0xA0000000#32 ∧ ∃ c : Opcode, w.extractLsb' 24 8 = c.number ∧ w &&& c.mask ≠ c.matchBits) ∨
     (a = 0xB0000000#32 ∧
       ((∃ v delta, decode w = .ok (.setoct v delta) ∧ (delta.toInt < -10 ∨ delta.toInt > 10)) ∨
        (∃ v r, decode w = .ok (.rdreg v r) ∧ regRead s v r = none))) ∨
     (a = 0xC0000000#32 ∧ ∃ v note, decode w = .ok (.trign v note) ∧
       ((note.toNat : Int) + (s.voice v).octoff.toInt < 0 ∨ (note.toNat : Int) + (s.voice v).octoff.toInt > 127)))

/-- 30_encoding sections 1 to 4: what a command is written as is read back as that command, for every command and
every operand. -/
def Obligations.DecodeInvertsEncode : Prop := ∀ i : Instr, decode (encode i) = .ok i

/-- 30_encoding sections 1 to 4: a word that spells a command is the word that command is written as; no bit is dropped. -/
def Obligations.EncodeInvertsDecode : Prop := ∀ (w : CmdWord) (i : Instr), decode w = .ok i → encode i = w

/-- Words written out in 95_test_vectors section 8 and section 10, and the commands they spell there. -/
def Obligations.WrittenWordsDecode : Prop :=
  decode 0x01030007#32 = .ok (.setwave 3 7) ∧ decode 0x0200007F#32 = .ok (.setpitchn 0 127) ∧
  decode 0x03014000#32 = .ok (.setpitchw 1 0x4000) ∧ decode 0x07020054#32 = .ok (.setmod 2 84) ∧
  decode 0x0800000A#32 = .ok (.setfmod 10) ∧ decode 0x0B0000F6#32 = .ok (.setoct 0 (-10)) ∧
  decode 0x0C020030#32 = .ok (.trign 2 48) ∧ decode 0x0E010000#32 = .ok (.isfree 1) ∧
  decode 0x12000015#32 = .ok (.rdreg 0 0x15) ∧ decode 0x13FFFFFF#32 = .error .illegalOpcode ∧
  decode 0x0B04000B#32 = .error .reservedField ∧ decode 0x0F010000#32 = .error .reservedField

/-- The text of a voice: one decimal digit (R68). -/
def voiceDigit (v : Voice) : List Char := Nat.toDigits 10 v.val

/-- The mnemonics with a voice and an unsigned operand: the number of values of the operand's field, and the command. -/
def voiceOperandStatements : List (String × Nat × (Voice → Nat → Instr)) :=
  [("SETWAVE", 256, fun v n => .setwave v (BitVec.ofNat 8 n)),
   ("SETPITCHN", 128, fun v n => .setpitchn v (BitVec.ofNat 7 n)),
   ("SETPITCHW", 65536, fun v n => .setpitchw v (BitVec.ofNat 16 n)),
   ("SETENV", 256, fun v n => .setenv v (BitVec.ofNat 8 n)),
   ("SETERATEL", 128, fun v n => .seteratel v (BitVec.ofNat 7 n)),
   ("SETERATEW", 65536, fun v n => .seteratew v (BitVec.ofNat 16 n)),
   ("SETMOD", 128, fun v n => .setmod v (BitVec.ofNat 7 n)),
   ("TRIGN", 128, fun v n => .trign v (BitVec.ofNat 7 n)),
   ("RDREG", 256, fun v n => .rdreg v (BitVec.ofNat 8 n))]

/-- The mnemonics with an unsigned operand and no voice. -/
def operandStatements : List (String × Nat × (Nat → Instr)) :=
  [("SETFMOD", 128, fun n => .setfmod (BitVec.ofNat 7 n)), ("SETCUT", 256, fun n => .setcut (BitVec.ofNat 8 n)),
   ("SETRES", 256, fun n => .setres (BitVec.ofNat 8 n))]

/-- The mnemonics with a voice only. -/
def voiceStatements : List (String × (Voice → Instr)) := [("TRIG", .trig), ("ISFREE", .isfree)]

/-- The mnemonics with no operand. -/
def bareStatements : List (String × Instr) := [("TICK", .tick), ("SUSPEND", .suspend), ("RESUME", .resume)]

/-- 30_encoding section 5 (R68): for each of the 18 mnemonics, the statement with operands that fit is the one command
with those operands, one whose operand does not fit its field (or whose voice is no digit 0 to 3) is refused, and a word
written for a mnemonic decodes to that mnemonic's command. That `SETOCT`'s operand fits from −128 to 127 is log 12's. -/
def Obligations.AssembledStatementSpellsItsCommand : Prop :=
  (∀ (fs : Nat) (x : List Char) (n : Nat), numberText x = some n →
    (∀ row ∈ voiceOperandStatements,
      (∀ v : Voice, statementEvents fs row.1.toList [voiceDigit v, x] =
        if n < row.2.1 then some [.cmd (encode (row.2.2 v n))] else none) ∧
      ∀ d : List Char, (∀ v : Voice, d ≠ voiceDigit v) → statementEvents fs row.1.toList [d, x] = none) ∧
    (∀ row ∈ operandStatements, statementEvents fs row.1.toList [x] =
      if n < row.2.1 then some [.cmd (encode (row.2.2 n))] else none)) ∧
  (∀ (fs : Nat) (x : List Char) (z : Int), signedText x = some z →
    (∀ v : Voice, statementEvents fs "SETOCT".toList [voiceDigit v, x] =
      if -128 ≤ z ∧ z ≤ 127 then some [.cmd (encode (.setoct v (BitVec.ofInt 8 z)))] else none) ∧
    ∀ d : List Char, (∀ v : Voice, d ≠ voiceDigit v) → statementEvents fs "SETOCT".toList [d, x] = none) ∧
  (∀ fs : Nat,
    (∀ row ∈ voiceStatements,
      (∀ v : Voice, statementEvents fs row.1.toList [voiceDigit v] = some [.cmd (encode (row.2 v))]) ∧
      ∀ d : List Char, (∀ v : Voice, d ≠ voiceDigit v) → statementEvents fs row.1.toList [d] = none) ∧
    (∀ row ∈ bareStatements, statementEvents fs row.1.toList [] = some [.cmd (encode row.2)])) ∧
  (∀ (c : Opcode) (operands : List (List Char)) (w : CmdWord), statementWord c operands = some w →
    ∃ i, decode w = .ok i ∧ i.opcode = c)

/-- Text of one part of a statement: no blank, no line end, no comma, no semicolon, and not empty. -/
def partText (x : List Char) : Prop := x ≠ [] ∧ ∀ c ∈ x, c ∉ [' ', '\t', '\r', '\n', ',', ';']

/-- 30_encoding section 5 (R68): a line is its mnemonic and its operands separated by commas, text from `;` on is a
comment, a script is its lines in order, and numbers are read as written, in decimal, in hexadecimal and with a sign.
That a line with a comment only stands for no event, that hexadecimal digits may be of either case, and that a sign may
be `+`, the hyphen or the minus sign is the model's choice (log 12). -/
def Obligations.LinesAndNumbersAreReadAsWritten : Prop :=
  (∀ (fs : Nat) (name x y comment : List Char), partText name → partText x → partText y →
    assembleLine fs (name ++ ' ' :: x ++ ',' :: ' ' :: y ++ ';' :: comment) = statementEvents fs name [x, y] ∧
    assembleLine fs (name ++ ' ' :: x ++ ',' :: ' ' :: y) = statementEvents fs name [x, y] ∧
    assembleLine fs (name ++ ' ' :: x ++ ';' :: comment) = statementEvents fs name [x] ∧
    assembleLine fs (name ++ ' ' :: x) = statementEvents fs name [x] ∧
    assembleLine fs (name ++ ';' :: comment) = statementEvents fs name [] ∧
    assembleLine fs name = statementEvents fs name [] ∧
    assembleLine fs (';' :: comment) = some []) ∧
  (∀ (fs : Nat) (line rest : List Char) (a b : List Event), '\n' ∉ line →
    assembleLine fs line = some a → assembleScript fs rest = some b →
    assembleScript fs (line ++ '\n' :: rest) = some (a ++ b)) ∧
  (∀ n : Nat,
    numberText (Nat.toDigits 10 n) = some n ∧ numberText ('0' :: 'x' :: Nat.toDigits 16 n) = some n ∧
    numberText ('0' :: 'x' :: (Nat.toDigits 16 n).map Char.toUpper) = some n ∧
    signedText (Nat.toDigits 10 n) = some (n : Int) ∧ signedText ('-' :: Nat.toDigits 10 n) = some (-(n : Int)) ∧
    signedText ('−' :: Nat.toDigits 10 n) = some (-(n : Int)) ∧ signedText ('+' :: Nat.toDigits 10 n) = some (n : Int))

/-- 30_encoding section 5 (R68) and section 6 (R72): `SAMPLE n`, `RESET`, and the pseudo-instruction `SETPITCHF`, which
expands to one word for every non-negative real frequency and which the assembler writes so for a whole frequency
(decimal or hexadecimal) and for a decimal one with a fraction. That a fraction is written in decimal and that `FS` is a
whole number of Hz there is the model's choice (log 7). -/
def Obligations.DirectivesStandForTheirEvents : Prop :=
  (∀ (fs : Nat) (x : List Char) (n : Nat), numberText x = some n →
    statementEvents fs "SAMPLE".toList [x] = if 1 ≤ n then some (List.replicate n .sample) else none) ∧
  (∀ fs : Nat, statementEvents fs "RESET".toList [] = some [.reset]) ∧
  (∀ (fs f : ℝ) (v : Voice), 0 < fs → 0 ≤ f → ∃! i, SetpitchfExpands fs v f i) ∧
  (∀ (fs : Nat) (v : Voice) (x : List Char) (n : Nat), 0 < fs → numberText x = some n →
    ∃ i, SetpitchfExpands fs v n i ∧ statementEvents fs "SETPITCHF".toList [voiceDigit v, x] = some [.cmd (encode i)] ∧
      i = .setpitchw v (BitVec.ofNat 16 (n * 65536 / fs))) ∧
  (∀ (fs : Nat) (v : Voice) (x y : List Char) (n m : Nat), 0 < fs → digits 10 x = some n → digits 10 y = some m →
    ∃ i, SetpitchfExpands fs v (n + m / 10 ^ y.length) i ∧
      statementEvents fs "SETPITCHF".toList [voiceDigit v, x ++ '.' :: y] = some [.cmd (encode i)] ∧
      i = .setpitchw v (BitVec.ofNat 16 ((n * 10 ^ y.length + m) * 65536 / (10 ^ y.length * fs))))

/-! ### Parameter commands -/

/-- 46 R120. -/
def Obligations.SetWaveSelectsIdOrSine : Prop :=
  Opcode.setwave.matchBits = 0x01000000#32 ∧ Opcode.setwave.mask = 0xFFFCFF00#32 ∧
  (∀ w : CmdWord, operandsOf .setwave w = .setwave (w.extractLsb' 16 2).toFin (w.extractLsb' 0 8)) ∧
  ∀ (s : State) (v : Voice) (id : BitVec 8), exec (.setwave v id) s = .next
    { s.setVoice v { s.voice v with wsel := if id.toNat ≤ 5 then BitVec.ofNat 3 id.toNat else 0 }
      with resp := some 0x00000000#32 }

/-- 46 R121. -/
def Obligations.SetPitchNoteLoadsPitchBase : Prop :=
  Opcode.setpitchn.matchBits = 0x02000000#32 ∧ Opcode.setpitchn.mask = 0xFFFCFF80#32 ∧
  (∀ w : CmdWord, operandsOf .setpitchn w = .setpitchn (w.extractLsb' 16 2).toFin (w.extractLsb' 0 7)) ∧
  ∀ (s : State) (v : Voice) (note : BitVec 7), exec (.setpitchn v note) s = .next
    { s.setVoice v { s.voice v with pb := Config.tables.note note } with resp := some 0x00000000#32 }

/-- 46 R122. -/
def Obligations.SetPitchWordStoresPitchBase : Prop :=
  Opcode.setpitchw.matchBits = 0x03000000#32 ∧ Opcode.setpitchw.mask = 0xFFFC0000#32 ∧
  (∀ w : CmdWord, operandsOf .setpitchw w = .setpitchw (w.extractLsb' 16 2).toFin (w.extractLsb' 0 16)) ∧
  ∀ (s : State) (v : Voice) (word : BitVec 16), exec (.setpitchw v word) s = .next
    { s.setVoice v { s.voice v with pb := word } with resp := some 0x00000000#32 }

/-- 46 R123. -/
def Obligations.SetEnvSelectsIdOrDefault : Prop :=
  Opcode.setenv.matchBits = 0x04000000#32 ∧ Opcode.setenv.mask = 0xFFFCFF00#32 ∧
  (∀ w : CmdWord, operandsOf .setenv w = .setenv (w.extractLsb' 16 2).toFin (w.extractLsb' 0 8)) ∧
  ∀ (s : State) (v : Voice) (id : BitVec 8), exec (.setenv v id) s = .next
    { s.setVoice v { s.voice v with esel := if 1 ≤ id.toNat ∧ id.toNat ≤ 4 then BitVec.ofNat 3 id.toNat else 0 }
      with resp := some 0x00000000#32 }

/-- 46 R124, R125. -/
def Obligations.EnvelopeRateCommandsStoreRate : Prop :=
  Opcode.seteratel.matchBits = 0x05000000#32 ∧ Opcode.seteratel.mask = 0xFFFCFF80#32 ∧
  (∀ w : CmdWord, operandsOf .seteratel w = .seteratel (w.extractLsb' 16 2).toFin (w.extractLsb' 0 7)) ∧
  Opcode.seteratew.matchBits = 0x06000000#32 ∧ Opcode.seteratew.mask = 0xFFFC0000#32 ∧
  (∀ w : CmdWord, operandsOf .seteratew w = .seteratew (w.extractLsb' 16 2).toFin (w.extractLsb' 0 16)) ∧
  (∀ (s : State) (v : Voice) (len : BitVec 7), exec (.seteratel v len) s = .next
    { s.setVoice v { s.voice v with erate := Config.tables.len len } with resp := some 0x00000000#32 }) ∧
  (∀ (s : State) (v : Voice) (word : BitVec 16), exec (.seteratew v word) s = .next
    { s.setVoice v { s.voice v with erate := word } with resp := some 0x00000000#32 })

/-- 46 R126, R127: the signed value of the depth written is `value − 64`. -/
def Obligations.ModulationDepthsAreCentred : Prop :=
  Opcode.setmod.matchBits = 0x07000000#32 ∧ Opcode.setmod.mask = 0xFFFCFF80#32 ∧
  (∀ w : CmdWord, operandsOf .setmod w = .setmod (w.extractLsb' 16 2).toFin (w.extractLsb' 0 7)) ∧
  Opcode.setfmod.matchBits = 0x08000000#32 ∧ Opcode.setfmod.mask = 0xFFFFFF80#32 ∧
  (∀ w : CmdWord, operandsOf .setfmod w = .setfmod (w.extractLsb' 0 7)) ∧
  ∀ (s : State) (value : BitVec 7), ∃ m : Byte, m.toInt = (value.toNat : Int) - 64 ∧
    (∀ v : Voice, exec (.setmod v value) s = .next
      { s.setVoice v { s.voice v with md := m } with resp := some 0x00000000#32 }) ∧
    exec (.setfmod value) s = .next { s with fmd := m, resp := some 0x00000000#32 }

/-- 46 R128, R129. -/
def Obligations.FilterParametersStored : Prop :=
  Opcode.setcut.matchBits = 0x09000000#32 ∧ Opcode.setcut.mask = 0xFFFFFF00#32 ∧
  (∀ w : CmdWord, operandsOf .setcut w = .setcut (w.extractLsb' 0 8)) ∧
  Opcode.setres.matchBits = 0x0A000000#32 ∧ Opcode.setres.mask = 0xFFFFFF00#32 ∧
  (∀ w : CmdWord, operandsOf .setres w = .setres (w.extractLsb' 0 8)) ∧
  ∀ (s : State) (x : BitVec 8),
    exec (.setcut x) s = .next { s with cutoff := x, resp := some 0x00000000#32 } ∧
    exec (.setres x) s = .next { s with res := x, resp := some 0x00000000#32 }

/-- 46 R130: both the stored offset and the refusal. -/
def Obligations.SetOctaveStoresTwelvePerOctave : Prop :=
  Opcode.setoct.matchBits = 0x0B000000#32 ∧ Opcode.setoct.mask = 0xFFFCFF00#32 ∧
  (∀ w : CmdWord, operandsOf .setoct w = .setoct (w.extractLsb' 16 2).toFin (w.extractLsb' 0 8)) ∧
  ∀ (s : State) (v : Voice) (delta : BitVec 8),
    (-10 ≤ delta.toInt ∧ delta.toInt ≤ 10 → ∃ x : Byte, x.toInt = 12 * delta.toInt ∧
      exec (.setoct v delta) s = .next
        { s.setVoice v { s.voice v with octoff := x } with resp := some 0x00000000#32 }) ∧
    ((delta.toInt < -10 ∨ delta.toInt > 10) →
      exec (.setoct v delta) s = .next { s with resp := some 0xB0000000#32 })

/-! ### Triggers, status, run control, reads -/

/-- 47 R132: the shifted note, the three writes, the recomputed word (which is the new pitch base), and the refusal. -/
def Obligations.TriggerAtNoteAppliesOctave : Prop :=
  Opcode.trign.matchBits = 0x0C000000#32 ∧ Opcode.trign.mask = 0xFFFCFF80#32 ∧
  (∀ w : CmdWord, operandsOf .trign w = .trign (w.extractLsb' 16 2).toFin (w.extractLsb' 0 7)) ∧
  ∀ (s : State) (v : Voice) (note n : BitVec 7),
    ((n.toNat : Int) = note.toNat + (s.voice v).octoff.toInt →
      exec (.trign v note) s = .next
        { s.setVoice v { s.voice v with
            pb := Config.tables.note n
            eacc := 0x0000
            tw := pitchWord (Config.tables.note n) 0x0000 (s.voice v).md } with resp := some 0x00000000#32 } ∧
      pitchWord (Config.tables.note n) 0x0000 (s.voice v).md = Config.tables.note n) ∧
    (((note.toNat : Int) + (s.voice v).octoff.toInt < 0 ∨ (note.toNat : Int) + (s.voice v).octoff.toInt > 127) →
      exec (.trign v note) s = .next { s with resp := some 0xC0000000#32 })

/-- 47 R133. -/
def Obligations.TriggerRestartsEnvelope : Prop :=
  Opcode.trig.matchBits = 0x0D000000#32 ∧ Opcode.trig.mask = 0xFFFCFFFF#32 ∧
  (∀ w : CmdWord, operandsOf .trig w = .trig (w.extractLsb' 16 2).toFin) ∧
  ∀ (s : State) (v : Voice), ∃ t, exec (.trig v) s = .next t ∧ t.free v = false ∧
    t = { s.setVoice v { s.voice v with eacc := 0x0000, tw := (s.voice v).pb } with resp := some 0x00000000#32 }

/-- 47 R134. -/
def Obligations.IsFreeAnswersTopBit : Prop :=
  Opcode.isfree.matchBits = 0x0E000000#32 ∧ Opcode.isfree.mask = 0xFFFCFFFF#32 ∧
  (∀ w : CmdWord, operandsOf .isfree w = .isfree (w.extractLsb' 16 2).toFin) ∧
  ∀ (s : State) (v : Voice), exec (.isfree v) s = .next
    { s with resp := some (if 0x8000 ≤ (s.voice v).eacc.toNat then 0x00000001#32 else 0x00000000#32) }

/-- 47 R135. -/
def Obligations.TickReadsAndClearsHeartbeat : Prop :=
  Opcode.tick.matchBits = 0x0F000000#32 ∧ Opcode.tick.mask = 0xFFFFFFFF#32 ∧
  (∀ w : CmdWord, operandsOf .tick w = .tick) ∧
  ∀ s : State, exec .tick s = .next
    { s with hb := false, resp := some (if s.hb then 0x00000001#32 else 0x00000000#32) }

/-- 47 R136, R137: the run flag, and what the next sample tick then does. -/
def Obligations.SuspendAndResumeWriteRunFlag : Prop :=
  Opcode.suspend.matchBits = 0x10000000#32 ∧ Opcode.suspend.mask = 0xFFFFFFFF#32 ∧
  (∀ w : CmdWord, operandsOf .suspend w = .suspend) ∧
  Opcode.resume.matchBits = 0x11000000#32 ∧ Opcode.resume.mask = 0xFFFFFFFF#32 ∧
  (∀ w : CmdWord, operandsOf .resume w = .resume) ∧
  ∀ s : State,
    (∃ t, exec .suspend s = .next t ∧ t = { s with en := false, resp := some 0x00000000#32 } ∧
      ∃ u, perform .sample t = .next u ∧ ∀ r : Reg, u.reg r = t.reg r) ∧
    (∃ t, exec .resume s = .next t ∧ t = { s with en := true, resp := some 0x00000000#32 } ∧
      (s.selectorsLegal → ∃ u, perform .sample t = .next u ∧ u.rr = s.rr + 1))

/-- 47 R138: a named register's image, with no effect on any register; everything else is refused. -/
def Obligations.ReadRegisterAnswersImage : Prop :=
  Opcode.rdreg.matchBits = 0x12000000#32 ∧ Opcode.rdreg.mask = 0xFFFCFF00#32 ∧
  (∀ w : CmdWord, operandsOf .rdreg w = .rdreg (w.extractLsb' 16 2).toFin (w.extractLsb' 0 8)) ∧
  ∀ (s : State) (v : Voice) (r : BitVec 8),
    ((r.toNat ≤ 0x09 ∨ (0x10 ≤ r.toNat ∧ r.toNat ≤ 0x1C ∧ v = 0)) →
      ∃ x : Word, regRead s v r = some x ∧ exec (.rdreg v r) s = .next { s with resp := some (0x0000#16 ++ x) }) ∧
    (¬ (r.toNat ≤ 0x09 ∨ (0x10 ≤ r.toNat ∧ r.toNat ≤ 0x1C ∧ v = 0)) →
      exec (.rdreg v r) s = .next { s with resp := some 0xB0000000#32 })

/-- 20_memory R41: the register map, number by number, and the reserved numbers. -/
def Obligations.RegisterMapAsListed : Prop :=
  (∀ (s : State) (v : Voice),
    regRead s v 0x00 = some (s.voice v).phase ∧ regRead s v 0x01 = some (s.voice v).tw ∧
    regRead s v 0x02 = some (s.voice v).pb ∧ regRead s v 0x03 = some ((s.voice v).amp.zeroExtend 16) ∧
    regRead s v 0x04 = some (s.voice v).eacc ∧ regRead s v 0x05 = some (s.voice v).erate ∧
    regRead s v 0x06 = some ((s.voice v).md.signExtend 16) ∧ regRead s v 0x07 = some ((s.voice v).wsel.zeroExtend 16) ∧
    regRead s v 0x08 = some ((s.voice v).esel.zeroExtend 16) ∧
    regRead s v 0x09 = some ((s.voice v).octoff.signExtend 16)) ∧
  (∀ s : State,
    regRead s 0 0x10 = some s.f0 ∧ regRead s 0 0x11 = some s.f1 ∧ regRead s 0 0x12 = some s.f2 ∧
    regRead s 0 0x13 = some (s.cutoff.zeroExtend 16) ∧ regRead s 0 0x14 = some (s.res.zeroExtend 16) ∧
    regRead s 0 0x15 = some (s.fmd.signExtend 16) ∧ regRead s 0 0x16 = some (BitVec.ofNat 16 s.rr.val) ∧
    regRead s 0 0x17 = some (if s.hb then 1 else 0) ∧ regRead s 0 0x18 = some (s.scnt.extractLsb' 0 16) ∧
    regRead s 0 0x19 = some (s.scnt.extractLsb' 16 16) ∧ regRead s 0 0x1A = some (if s.en then 1 else 0) ∧
    regRead s 0 0x1B = some (s.dac.zeroExtend 16) ∧ regRead s 0 0x1C = some s.yout) ∧
  (∀ (s : State) (v : Voice) (r : BitVec 8),
    ((0x0A ≤ r.toNat ∧ r.toNat ≤ 0x0F) ∨ 0x1D ≤ r.toNat ∨ (0x10 ≤ r.toNat ∧ v ≠ 0)) →
      regRead s v r = none ∧ exec (.rdreg v r) s = .next { s with resp := some 0xB0000000#32 })

/-! ### Frames -/

/-- 20_memory section 11 (R52), the command rows: a command writes only the registers listed for it, and touches
neither the events still to come nor the model's counter of arrivals. -/
def Obligations.CommandsWriteOnlyListedRegisters : Prop :=
  ∀ (i : Instr) (s t : State), exec i s = .next t →
    (∀ r : Reg, r ∉ mayWrite i → t.reg r = s.reg r) ∧ (i = .tick → t.hb = false) ∧
    t.inbox = s.inbox ∧ t.arrivals = s.arrivals

/-- 20_memory section 11 (R52), the `SAMPLE` rows. -/
def Obligations.SampleWritesOnlyListedRegisters : Prop :=
  ∀ s t : State, perform .sample s = .next t →
    (∀ r : Reg, r ∉ sampleMayWrite s → t.reg r = s.reg r) ∧ (s.hb = true → t.hb = true) ∧
    t.inbox = s.inbox ∧ t.arrivals = s.arrivals

/-! ### The sample step. The premise `selectorsLegal` rules out ill-formed states only (93 U17); it is part of the
invariant that every step keeps. -/

/-- 40_sample_step R84. -/
def Obligations.SuspendedTickChangesNothing : Prop :=
  ∀ s : State, s.en = false → ∃ t, perform .sample s = .next t ∧ ∀ r : Reg, t.reg r = s.reg r

/-- 40_sample_step R85: a successor in every state, and no response. -/
def Obligations.SampleStepAlwaysCompletes : Prop :=
  ∀ s : State, s.selectorsLegal → ∃ t, perform .sample s = .next t ∧ t.resp = none

/-- The mixed sample of 43_mixer R102 in plain arithmetic: four floors, a sum, one more floor. -/
def mixedOf (smp : Bank Byte) (t : State) : Int :=
  (smp.v0.toInt * (t.voice 0).amp.toNat / 256 + smp.v1.toInt * (t.voice 1).amp.toNat / 256
    + smp.v2.toInt * (t.voice 2).amp.toNat / 256 + smp.v3.toInt * (t.voice 3).amp.toNat / 256) / 4

/-- The samples of 41_oscillator_bank R90: the selected waveform at the upper byte of the NEW accumulators. -/
def samplesOf (s t : State) (smp : Bank Byte) : Prop :=
  ∀ v : Voice, ∃ h : (s.voice v).wsel.toNat < 6,
    smp.get v = Config.tables.wave ⟨(s.voice v).wsel.toNat, h⟩ ((t.voice v).phase.extractLsb' 8 8)

/-- 41 R90, 43 R102, 44 R106: with the filter bypassed the output is the mix of the four table reads, and the filter
state is untouched. Amplitudes are those the envelope phase left; accumulators moved by the OLD tuning words. -/
def Obligations.BypassedOutputIsMixOfWaveReads : Prop :=
  ∀ s : State, s.selectorsLegal → s.en = true → s.cutoff = 255 →
    ∃ t smp, perform .sample s = .next t ∧
      (∀ v : Voice, (t.voice v).phase.toNat = ((s.voice v).phase.toNat + (s.voice v).tw.toNat) % 65536) ∧
      samplesOf s t smp ∧ t.yout.toInt = mixedOf smp t ∧ t.f0 = s.f0 ∧ t.f1 = s.f1 ∧ t.f2 = s.f2

/-- 44 R107 and 41 R90: the filter update in its stage order, with `swrap_16` on each store, of the mix of the four
table reads; all four accumulators moved by the OLD tuning words. -/
def Obligations.FilterUpdatesInStageOrder : Prop :=
  ∀ s : State, s.selectorsLegal → s.en = true → s.cutoff ≠ 255 →
    ∃ t smp, perform .sample s = .next t ∧
      (∀ v : Voice, (t.voice v).phase.toNat = ((s.voice v).phase.toNat + (s.voice v).tw.toNat) % 65536) ∧
      samplesOf s t smp ∧
      t.f0.toInt = ((s.f0.toInt * (255 - (s.cutoff.toNat : Int)) + s.f1.toInt * s.cutoff.toNat) / 256).bmod 65536 ∧
      t.f1.toInt = ((s.f1.toInt * (255 - (s.cutoff.toNat : Int)) + s.f2.toInt * s.cutoff.toNat) / 256).bmod 65536 ∧
      t.f2.toInt = (mixedOf smp t - t.f0.toInt * s.res.toNat / 256).bmod 65536 ∧
      t.yout = t.f0

/-- 42 R95, R96, R97: one voice's slot, its two branches, and the index bits. -/
def Obligations.EnvelopeSlotMovesOneVoice : Prop :=
  ∀ s : State, s.selectorsLegal → s.en = true →
    ∃ t, perform .sample s = .next t ∧
      (∀ v : Voice, v ≠ s.rr → (t.voice v).eacc = (s.voice v).eacc ∧ (t.voice v).amp = (s.voice v).amp) ∧
      ((s.voice s.rr).eacc.toNat < 32768 →
        (t.voice s.rr).eacc = (s.voice s.rr).eacc + (s.voice s.rr).erate ∧
        ∃ h : (s.voice s.rr).esel.toNat < 5, (t.voice s.rr).amp =
          Config.tables.env ⟨(s.voice s.rr).esel.toNat, h⟩ ((t.voice s.rr).eacc.extractLsb' 8 7)) ∧
      (32768 ≤ (s.voice s.rr).eacc.toNat →
        (t.voice s.rr).eacc = (s.voice s.rr).eacc ∧ (t.voice s.rr).amp = 0)

/-- 44 R112: the output value is `127 + y` in 8 bits, `y` being what `YOUT` now holds. -/
def Obligations.OutputIsOffsetAndWrapped : Prop :=
  ∀ s : State, s.selectorsLegal → s.en = true →
    ∃ t, perform .sample s = .next t ∧ (t.dac.toNat : Int) = (127 + t.yout.toInt) % 256

/-- 43_mixer (R103, derived there): the mixer never leaves −128 to 126, and reaches both ends. -/
def Obligations.MixerStaysInSignedByteRange : Prop :=
  (∀ smp amp : Bank Byte, -128 ≤ mix smp amp ∧ mix smp amp ≤ 126) ∧
  mix ⟨-128, -128, -128, -128⟩ ⟨255, 255, 255, 255⟩ = -128 ∧ mix ⟨127, 127, 127, 127⟩ ⟨255, 255, 255, 255⟩ = 126

/-- 45 R114: exact product, one division, one multiplication, one reduction modulo 65536. -/
def Obligations.PitchWordIsExactThenWrapped : Prop :=
  ∀ (pb e : Word) (m : Byte), ((pitchWord pb e m).toNat : Int) =
    ((pb.toNat : Int) + ((pb.toNat / 64) * (e.toNat / 64) / 128 : Nat) * m.toInt) % 65536

/-- 45 (R116, derived there): zero depth, an accumulator below 64 or a pitch base below 64 gives no bend. -/
def Obligations.ZeroDepthLeavesPitchBase : Prop :=
  ∀ (pb e : Word) (m : Byte), (m = 0 ∨ e.toNat < 64 ∨ pb.toNat < 64) → pitchWord pb e m = pb

/-- 45 R115: the slot's voice gets its word from the accumulator this step left, this step's phase still moved by
the OLD word, and no other tuning word moves. -/
def Obligations.TuningWordOfSlotIsRecomputed : Prop :=
  ∀ s : State, s.selectorsLegal → s.en = true →
    ∃ t, perform .sample s = .next t ∧
      (t.voice s.rr).tw = pitchWord (s.voice s.rr).pb (t.voice s.rr).eacc (s.voice s.rr).md ∧
      (t.voice s.rr).phase = (s.voice s.rr).phase + (s.voice s.rr).tw ∧
      ∀ v : Voice, v ≠ s.rr → (t.voice v).tw = (s.voice v).tw

/-- 40 R86: the sequencer. -/
def Obligations.SequencerStepsRoundRobin : Prop :=
  ∀ s : State, s.selectorsLegal → s.en = true →
    ∃ t, perform .sample s = .next t ∧ t.rr.val = (s.rr.val + 1) % 4 ∧
      t.hb = (s.rr == 3 || s.hb) ∧ t.scnt.toNat = (s.scnt.toNat + 1) % 2 ^ 32

/-! ### Invariants and whole-machine rules -/

/-- 10_state section 9 (R35, derived there) at reset. -/
def Obligations.ResetMeetsTheInvariant : Prop := State.reset.Inv

/-- 10_state section 9 (R35) and 44 section 2 (R110), derived there: every step keeps the invariant, whichever event comes. -/
def Obligations.EveryStepKeepsTheInvariant : Prop := ∀ s t : State, s.Inv → step s = .next t → t.Inv

/-- 60_exceptions section 6 (R156, derived there): no event stops the machine. -/
def Obligations.NoEventStopsTheMachine : Prop :=
  ∀ (e : Event) (s : State), s.selectorsLegal → ∃ t, perform e s = .next t ∧ t.selectorsLegal

/-- 20_memory section 7, 60_exceptions section 6 and 10_state section 9: an execution of any length from reset, over ANY
placed events and then whatever arrives, never stops and ends in a state with the invariant. That the events come from
the inbox and, when it is empty, as free arrivals is the model's choice (logs 1 and 3). -/
def Obligations.EveryExecutionFromResetIsSound : Prop :=
  ∀ (script : List Event) (k : Nat),
    ∃ t : State, Sys2Proof.core.run k ({ State.reset with inbox := script } : State) = .next t ∧ State.Inv t

/-- 42 section 3 (R98) with 70 section 1: only a trigger makes a free voice busy; only a crossing slot or reset frees one. -/
def Obligations.FreeBitChangesOnlyByTriggerSlotOrReset : Prop :=
  ∀ (e : Event) (s t : State) (v : Voice), perform e s = .next t →
    (s.free v = true → t.free v = false →
      ∃ w, e = .cmd w ∧ (decode w = .ok (.trig v) ∨ ∃ note, decode w = .ok (.trign v note))) ∧
    (s.free v = false → t.free v = true → e = .reset ∨ (e = .sample ∧ s.en = true ∧ s.rr = v))

/-- 10_state R26: when `HB` rises, when it falls, and where it is read. -/
def Obligations.HeartbeatRisesAtSlotThreeOnly : Prop :=
  (∀ (e : Event) (s t : State), perform e s = .next t →
    (e = .sample → s.en = true → s.rr = 3 → t.hb = true) ∧
    (s.hb = false → t.hb = true → e = .sample ∧ s.en = true ∧ s.rr = 3) ∧
    (s.hb = true → t.hb = false → e = .reset ∨ ∃ w, e = .cmd w ∧ decode w = .ok .tick)) ∧
  (∀ s : State, s.hbO = s.hb ∧ regRead s 0 0x17 = some (if s.hb then 1 else 0)) ∧ State.reset.hb = false

/-- 10_state section 4 (R27): `SCNT` counts performed sample steps and nothing else. -/
def Obligations.SampleCounterCountsPerformedSteps : Prop :=
  ∀ (e : Event) (s t : State), perform e s = .next t → e ≠ .reset →
    t.scnt = if e = .sample ∧ s.en = true then s.scnt + 1 else s.scnt

/-- 10_state section 4 (R28) and 60 section 2 (R146): only `SUSPEND`, `RESUME` and reset change the run flag. -/
def Obligations.RunFlagChangesOnlyByRunControl : Prop :=
  ∀ (e : Event) (s t : State), perform e s = .next t →
    (s.en = true → t.en = false → e = .reset ∨ ∃ w, e = .cmd w ∧ decode w = .ok .suspend) ∧
    (s.en = false → t.en = true → ∃ w, e = .cmd w ∧ decode w = .ok .resume)

/-- 10_state section 4 (R24): nothing but `RDREG` can tell what `FMD` holds. Two states that differ only there
answer alike and go on differing at most there. -/
def Obligations.FilterDepthIsInert : Prop :=
  ∀ (e : Event) (s t : State) (x : Byte), perform e s = .next t →
    (∀ w, e = .cmd w → decode w ≠ .ok (.rdreg 0 0x15)) →
    ∃ y : Byte, perform e { s with fmd := x } = .next { t with fmd := y }

/-- 41 section 2 (R91), 42 section 2 (R96), 45 (R115) and 20_memory section 11 (R52): no event lets one voice's registers reach another voice's. -/
def Obligations.VoicesDoNotDisturbEachOther : Prop :=
  ∀ (e : Event) (s t t' : State) (u v : Voice) (g : VoiceRegs), u ≠ v →
    perform e s = .next t → perform e (s.setVoice u g) = .next t' → t'.voice v = t.voice v

/-! ### Laws over many steps -/

/-- 41 section 3 (R92, derived there): with zero depth and `TW = PB`, `n` performed steps add exactly `n * TW`. The
steps are placed in the inbox, the model's choice (log 1). -/
def Obligations.PhaseAccumulatesExactly : Prop :=
  ∀ (n : Nat) (s : State) (v : Voice), s.selectorsLegal → s.en = true → (s.voice v).md = 0 →
    (s.voice v).tw = (s.voice v).pb → s.inbox = List.replicate n .sample →
    ∃ t : State, Sys2Proof.core.run n s = .next t ∧ (t.voice v).tw = (s.voice v).tw ∧
      (t.voice v).phase.toNat = ((s.voice v).phase.toNat + n * (s.voice v).tw.toNat) % 65536

/-- 42 section 4 (R99, derived there): a triggered voice with constant rate `R ≥ 1` is free after `4 * ceil(32768 / R)`
performed steps and still busy before `4 * ceil(32768 / R) − 3` of them. The steps are placed in the inbox, the
model's choice (log 1). -/
def Obligations.TriggeredVoiceBecomesFreeInTime : Prop :=
  ∀ (n k : Nat) (s : State) (v : Voice), s.selectorsLegal → s.en = true → (s.voice v).eacc = 0 →
    1 ≤ (s.voice v).erate.toNat → k = (32768 + (s.voice v).erate.toNat - 1) / (s.voice v).erate.toNat →
    s.inbox = List.replicate n .sample →
    ∃ t : State, Sys2Proof.core.run n s = .next t ∧
      (4 * k ≤ n → State.free t v = true) ∧ (n + 3 < 4 * k → State.free t v = false)

/-- 30_encoding section 6 (R73): what a patch import writes is what the export read, whatever state it is imported into.
That a patch is the 23 values R73 lists, and not the 22 it counts, is the model's choice (log 13). -/
def Obligations.PatchImportRestoresParameters : Prop :=
  ∀ (s u : State), s.Inv → ∃ is t, patchImport (converse patchReads s).1 = some is ∧ t = (converse is u).2 ∧
    (∀ v : Voice, (t.voice v).md = (s.voice v).md ∧ (t.voice v).wsel = (s.voice v).wsel ∧
      (t.voice v).esel = (s.voice v).esel ∧ (t.voice v).erate = (s.voice v).erate ∧
      (t.voice v).octoff = (s.voice v).octoff ∧ (t.voice v).pb = (u.voice v).pb) ∧
    t.fmd = s.fmd ∧ t.cutoff = s.cutoff ∧ t.res = s.res ∧ t.en = true

/-- 40 section 2 (R87, derived there) and property S-6 of 95 section 1: one `TICK` after every performed step answers 1
exactly when the step served voice 3, which is once per four. The events are placed in the inbox, the model's choice
(log 1). -/
def Obligations.HeartbeatAnswersOncePerFourSteps : Prop :=
  ∀ (n : Nat) (s : State), s.selectorsLegal → s.en = true → s.hb = false →
    s.inbox = (List.replicate (n + 1) [.sample, .cmd 0x0F000000#32]).flatten →
    ∃ t : State, Sys2Proof.core.run (2 * (n + 1)) s = .next t ∧
      t.resp = some (if (s.rr.val + n) % 4 = 3 then 0x00000001#32 else 0x00000000#32)

/-- 20_memory section 12 (R53, derived there): the recipe that reads the 32-bit counter in halves. -/
def Obligations.CounterReadRecipeAnswersCount : Prop :=
  (∀ s : State, ∃ high low high', (converse scntReads s).1 = [high, low, high'] ∧ scntOf high low high' = some s.scnt ∧
    ∀ r : Reg, (converse scntReads s).2.reg r = s.reg r) ∧
  ∀ high low high' : Word, high ≠ high' → scntOf high low high' = none
end

