-- ==== Sys2Proof/Laws/State.lean ====
section
/-! SUPPORT. One lemma for each field and each update of the state, and the bank of voices. -/

namespace Sys2Proof.Machine

variable {α β : Type}

/-- A voice index is one of four. -/
theorem voice_cases (v : Voice) : v = 0 ∨ v = 1 ∨ v = 2 ∨ v = 3 := by
  revert v; decide

@[simp] theorem Bank.get_set_self (b : Bank α) (v : Voice) (x : α) : (b.set v x).get v = x := by
  rcases voice_cases v with rfl | rfl | rfl | rfl <;> rfl

theorem Bank.get_set_of_ne (b : Bank α) {v w : Voice} (x : α) (h : w ≠ v) : (b.set v x).get w = b.get w := by
  rcases voice_cases v with rfl | rfl | rfl | rfl <;> rcases voice_cases w with rfl | rfl | rfl | rfl <;>
    first | rfl | exact absurd rfl h

theorem Bank.get_set (b : Bank α) (v w : Voice) (x : α) : (b.set v x).get w = if w = v then x else b.get w := by
  by_cases h : w = v
  · subst h; simp
  · simp [h, Bank.get_set_of_ne b x h]

@[simp] theorem Bank.get_map (f : α → β) (b : Bank α) (v : Voice) : (b.map f).get v = f (b.get v) := by
  rcases voice_cases v with rfl | rfl | rfl | rfl <;> rfl

@[ext] theorem Bank.ext_get {a b : Bank α} (h : ∀ v, a.get v = b.get v) : a = b := by
  cases a; cases b
  simp only [Bank.mk.injEq]
  exact ⟨h 0, h 1, h 2, h 3⟩

theorem State.voice_def (s : State) (v : Voice) : s.voice v = s.voices.get v := rfl

@[simp] theorem State.voice_setVoice_self (s : State) (v : Voice) (g : VoiceRegs) : (s.setVoice v g).voice v = g :=
  Bank.get_set_self _ _ _

theorem State.voice_setVoice_of_ne (s : State) {v w : Voice} (g : VoiceRegs) (h : w ≠ v) :
    (s.setVoice v g).voice w = s.voice w :=
  Bank.get_set_of_ne _ _ h

theorem State.voice_setVoice (s : State) (v w : Voice) (g : VoiceRegs) :
    (s.setVoice v g).voice w = if w = v then g else s.voice w :=
  Bank.get_set _ _ _ _

@[simp] theorem State.setVoice_voice (s : State) (v : Voice) : s.setVoice v (s.voice v) = s := by
  have : s.voices.set v (s.voices.get v) = s.voices := by
    rcases voice_cases v with rfl | rfl | rfl | rfl <;> rfl
  simp [State.setVoice, State.voice, this]

@[simp] theorem State.setVoice_f0 (s : State) (v : Voice) (g : VoiceRegs) : (s.setVoice v g).f0 = s.f0 := rfl
@[simp] theorem State.setVoice_f1 (s : State) (v : Voice) (g : VoiceRegs) : (s.setVoice v g).f1 = s.f1 := rfl
@[simp] theorem State.setVoice_f2 (s : State) (v : Voice) (g : VoiceRegs) : (s.setVoice v g).f2 = s.f2 := rfl
@[simp] theorem State.setVoice_cutoff (s : State) (v : Voice) (g : VoiceRegs) : (s.setVoice v g).cutoff = s.cutoff := rfl
@[simp] theorem State.setVoice_res (s : State) (v : Voice) (g : VoiceRegs) : (s.setVoice v g).res = s.res := rfl
@[simp] theorem State.setVoice_fmd (s : State) (v : Voice) (g : VoiceRegs) : (s.setVoice v g).fmd = s.fmd := rfl
@[simp] theorem State.setVoice_rr (s : State) (v : Voice) (g : VoiceRegs) : (s.setVoice v g).rr = s.rr := rfl
@[simp] theorem State.setVoice_hb (s : State) (v : Voice) (g : VoiceRegs) : (s.setVoice v g).hb = s.hb := rfl
@[simp] theorem State.setVoice_scnt (s : State) (v : Voice) (g : VoiceRegs) : (s.setVoice v g).scnt = s.scnt := rfl
@[simp] theorem State.setVoice_en (s : State) (v : Voice) (g : VoiceRegs) : (s.setVoice v g).en = s.en := rfl
@[simp] theorem State.setVoice_yout (s : State) (v : Voice) (g : VoiceRegs) : (s.setVoice v g).yout = s.yout := rfl
@[simp] theorem State.setVoice_dac (s : State) (v : Voice) (g : VoiceRegs) : (s.setVoice v g).dac = s.dac := rfl
@[simp] theorem State.setVoice_inbox (s : State) (v : Voice) (g : VoiceRegs) : (s.setVoice v g).inbox = s.inbox := rfl
@[simp] theorem State.setVoice_arrivals (s : State) (v : Voice) (g : VoiceRegs) : (s.setVoice v g).arrivals = s.arrivals := rfl
@[simp] theorem State.setVoice_resp (s : State) (v : Voice) (g : VoiceRegs) : (s.setVoice v g).resp = s.resp := rfl

@[simp] theorem State.respond_voices (s : State) (x : Word) : (s.respond x).voices = s.voices := rfl
@[simp] theorem State.respond_f0 (s : State) (x : Word) : (s.respond x).f0 = s.f0 := rfl
@[simp] theorem State.respond_f1 (s : State) (x : Word) : (s.respond x).f1 = s.f1 := rfl
@[simp] theorem State.respond_f2 (s : State) (x : Word) : (s.respond x).f2 = s.f2 := rfl
@[simp] theorem State.respond_cutoff (s : State) (x : Word) : (s.respond x).cutoff = s.cutoff := rfl
@[simp] theorem State.respond_res (s : State) (x : Word) : (s.respond x).res = s.res := rfl
@[simp] theorem State.respond_fmd (s : State) (x : Word) : (s.respond x).fmd = s.fmd := rfl
@[simp] theorem State.respond_rr (s : State) (x : Word) : (s.respond x).rr = s.rr := rfl
@[simp] theorem State.respond_hb (s : State) (x : Word) : (s.respond x).hb = s.hb := rfl
@[simp] theorem State.respond_scnt (s : State) (x : Word) : (s.respond x).scnt = s.scnt := rfl
@[simp] theorem State.respond_en (s : State) (x : Word) : (s.respond x).en = s.en := rfl
@[simp] theorem State.respond_yout (s : State) (x : Word) : (s.respond x).yout = s.yout := rfl
@[simp] theorem State.respond_dac (s : State) (x : Word) : (s.respond x).dac = s.dac := rfl
@[simp] theorem State.respond_inbox (s : State) (x : Word) : (s.respond x).inbox = s.inbox := rfl
@[simp] theorem State.respond_arrivals (s : State) (x : Word) : (s.respond x).arrivals = s.arrivals := rfl

@[simp] theorem State.respond_resp (s : State) (x : Word) : (s.respond x).resp = some (okWord x) := rfl
@[simp] theorem State.respond_voice (s : State) (x : Word) (v : Voice) : (s.respond x).voice v = s.voice v := rfl

@[simp] theorem State.raiseError_voices (s : State) (c : Cause) : (s.raiseError c).voices = s.voices := rfl
@[simp] theorem State.raiseError_f0 (s : State) (c : Cause) : (s.raiseError c).f0 = s.f0 := rfl
@[simp] theorem State.raiseError_f1 (s : State) (c : Cause) : (s.raiseError c).f1 = s.f1 := rfl
@[simp] theorem State.raiseError_f2 (s : State) (c : Cause) : (s.raiseError c).f2 = s.f2 := rfl
@[simp] theorem State.raiseError_cutoff (s : State) (c : Cause) : (s.raiseError c).cutoff = s.cutoff := rfl
@[simp] theorem State.raiseError_res (s : State) (c : Cause) : (s.raiseError c).res = s.res := rfl
@[simp] theorem State.raiseError_fmd (s : State) (c : Cause) : (s.raiseError c).fmd = s.fmd := rfl
@[simp] theorem State.raiseError_rr (s : State) (c : Cause) : (s.raiseError c).rr = s.rr := rfl
@[simp] theorem State.raiseError_hb (s : State) (c : Cause) : (s.raiseError c).hb = s.hb := rfl
@[simp] theorem State.raiseError_scnt (s : State) (c : Cause) : (s.raiseError c).scnt = s.scnt := rfl
@[simp] theorem State.raiseError_en (s : State) (c : Cause) : (s.raiseError c).en = s.en := rfl
@[simp] theorem State.raiseError_yout (s : State) (c : Cause) : (s.raiseError c).yout = s.yout := rfl
@[simp] theorem State.raiseError_dac (s : State) (c : Cause) : (s.raiseError c).dac = s.dac := rfl
@[simp] theorem State.raiseError_inbox (s : State) (c : Cause) : (s.raiseError c).inbox = s.inbox := rfl
@[simp] theorem State.raiseError_arrivals (s : State) (c : Cause) : (s.raiseError c).arrivals = s.arrivals := rfl

@[simp] theorem State.raiseError_resp (s : State) (c : Cause) : (s.raiseError c).resp = some (errorWord c) := rfl
@[simp] theorem State.raiseError_voice (s : State) (c : Cause) (v : Voice) : (s.raiseError c).voice v = s.voice v := rfl

@[simp] theorem State.silent_voices (s : State) : s.silent.voices = s.voices := rfl
@[simp] theorem State.silent_f0 (s : State) : s.silent.f0 = s.f0 := rfl
@[simp] theorem State.silent_f1 (s : State) : s.silent.f1 = s.f1 := rfl
@[simp] theorem State.silent_f2 (s : State) : s.silent.f2 = s.f2 := rfl
@[simp] theorem State.silent_cutoff (s : State) : s.silent.cutoff = s.cutoff := rfl
@[simp] theorem State.silent_res (s : State) : s.silent.res = s.res := rfl
@[simp] theorem State.silent_fmd (s : State) : s.silent.fmd = s.fmd := rfl
@[simp] theorem State.silent_rr (s : State) : s.silent.rr = s.rr := rfl
@[simp] theorem State.silent_hb (s : State) : s.silent.hb = s.hb := rfl
@[simp] theorem State.silent_scnt (s : State) : s.silent.scnt = s.scnt := rfl
@[simp] theorem State.silent_en (s : State) : s.silent.en = s.en := rfl
@[simp] theorem State.silent_yout (s : State) : s.silent.yout = s.yout := rfl
@[simp] theorem State.silent_dac (s : State) : s.silent.dac = s.dac := rfl
@[simp] theorem State.silent_inbox (s : State) : s.silent.inbox = s.inbox := rfl
@[simp] theorem State.silent_arrivals (s : State) : s.silent.arrivals = s.arrivals := rfl
@[simp] theorem State.silent_resp (s : State) : s.silent.resp = none := rfl
@[simp] theorem State.silent_voice (s : State) (v : Voice) : s.silent.voice v = s.voice v := rfl

@[simp] theorem oscAdvance_f0 (s : State) : (oscAdvance s).f0 = s.f0 := rfl
@[simp] theorem oscAdvance_f1 (s : State) : (oscAdvance s).f1 = s.f1 := rfl
@[simp] theorem oscAdvance_f2 (s : State) : (oscAdvance s).f2 = s.f2 := rfl
@[simp] theorem oscAdvance_cutoff (s : State) : (oscAdvance s).cutoff = s.cutoff := rfl
@[simp] theorem oscAdvance_res (s : State) : (oscAdvance s).res = s.res := rfl
@[simp] theorem oscAdvance_fmd (s : State) : (oscAdvance s).fmd = s.fmd := rfl
@[simp] theorem oscAdvance_rr (s : State) : (oscAdvance s).rr = s.rr := rfl
@[simp] theorem oscAdvance_hb (s : State) : (oscAdvance s).hb = s.hb := rfl
@[simp] theorem oscAdvance_scnt (s : State) : (oscAdvance s).scnt = s.scnt := rfl
@[simp] theorem oscAdvance_en (s : State) : (oscAdvance s).en = s.en := rfl
@[simp] theorem oscAdvance_yout (s : State) : (oscAdvance s).yout = s.yout := rfl
@[simp] theorem oscAdvance_dac (s : State) : (oscAdvance s).dac = s.dac := rfl
@[simp] theorem oscAdvance_inbox (s : State) : (oscAdvance s).inbox = s.inbox := rfl
@[simp] theorem oscAdvance_arrivals (s : State) : (oscAdvance s).arrivals = s.arrivals := rfl
@[simp] theorem oscAdvance_resp (s : State) : (oscAdvance s).resp = s.resp := rfl

@[simp] theorem oscAdvance_voice (s : State) (v : Voice) : (oscAdvance s).voice v = laneAdvance (s.voice v) :=
  Bank.get_map _ _ _

@[simp] theorem output_voices (y : Int) (s : State) : (output y s).voices = s.voices := rfl
@[simp] theorem output_f0 (y : Int) (s : State) : (output y s).f0 = s.f0 := rfl
@[simp] theorem output_f1 (y : Int) (s : State) : (output y s).f1 = s.f1 := rfl
@[simp] theorem output_f2 (y : Int) (s : State) : (output y s).f2 = s.f2 := rfl
@[simp] theorem output_cutoff (y : Int) (s : State) : (output y s).cutoff = s.cutoff := rfl
@[simp] theorem output_res (y : Int) (s : State) : (output y s).res = s.res := rfl
@[simp] theorem output_fmd (y : Int) (s : State) : (output y s).fmd = s.fmd := rfl
@[simp] theorem output_rr (y : Int) (s : State) : (output y s).rr = s.rr := rfl
@[simp] theorem output_hb (y : Int) (s : State) : (output y s).hb = s.hb := rfl
@[simp] theorem output_scnt (y : Int) (s : State) : (output y s).scnt = s.scnt := rfl
@[simp] theorem output_en (y : Int) (s : State) : (output y s).en = s.en := rfl
@[simp] theorem output_inbox (y : Int) (s : State) : (output y s).inbox = s.inbox := rfl
@[simp] theorem output_arrivals (y : Int) (s : State) : (output y s).arrivals = s.arrivals := rfl
@[simp] theorem output_resp (y : Int) (s : State) : (output y s).resp = s.resp := rfl

@[simp] theorem output_yout (y : Int) (s : State) : (output y s).yout = store16 y := rfl
@[simp] theorem output_dac (y : Int) (s : State) : (output y s).dac = store8 (127 + y) := rfl
@[simp] theorem output_voice (y : Int) (s : State) (v : Voice) : (output y s).voice v = s.voice v := rfl

@[simp] theorem pitchStep_f0 (d : Voice) (s : State) : (pitchStep d s).f0 = s.f0 := rfl
@[simp] theorem pitchStep_f1 (d : Voice) (s : State) : (pitchStep d s).f1 = s.f1 := rfl
@[simp] theorem pitchStep_f2 (d : Voice) (s : State) : (pitchStep d s).f2 = s.f2 := rfl
@[simp] theorem pitchStep_cutoff (d : Voice) (s : State) : (pitchStep d s).cutoff = s.cutoff := rfl
@[simp] theorem pitchStep_res (d : Voice) (s : State) : (pitchStep d s).res = s.res := rfl
@[simp] theorem pitchStep_fmd (d : Voice) (s : State) : (pitchStep d s).fmd = s.fmd := rfl
@[simp] theorem pitchStep_rr (d : Voice) (s : State) : (pitchStep d s).rr = s.rr := rfl
@[simp] theorem pitchStep_hb (d : Voice) (s : State) : (pitchStep d s).hb = s.hb := rfl
@[simp] theorem pitchStep_scnt (d : Voice) (s : State) : (pitchStep d s).scnt = s.scnt := rfl
@[simp] theorem pitchStep_en (d : Voice) (s : State) : (pitchStep d s).en = s.en := rfl
@[simp] theorem pitchStep_yout (d : Voice) (s : State) : (pitchStep d s).yout = s.yout := rfl
@[simp] theorem pitchStep_dac (d : Voice) (s : State) : (pitchStep d s).dac = s.dac := rfl
@[simp] theorem pitchStep_inbox (d : Voice) (s : State) : (pitchStep d s).inbox = s.inbox := rfl
@[simp] theorem pitchStep_arrivals (d : Voice) (s : State) : (pitchStep d s).arrivals = s.arrivals := rfl
@[simp] theorem pitchStep_resp (d : Voice) (s : State) : (pitchStep d s).resp = s.resp := rfl

@[simp] theorem sched_voices (d : Voice) (s : State) : (sched d s).voices = s.voices := rfl
@[simp] theorem sched_f0 (d : Voice) (s : State) : (sched d s).f0 = s.f0 := rfl
@[simp] theorem sched_f1 (d : Voice) (s : State) : (sched d s).f1 = s.f1 := rfl
@[simp] theorem sched_f2 (d : Voice) (s : State) : (sched d s).f2 = s.f2 := rfl
@[simp] theorem sched_cutoff (d : Voice) (s : State) : (sched d s).cutoff = s.cutoff := rfl
@[simp] theorem sched_res (d : Voice) (s : State) : (sched d s).res = s.res := rfl
@[simp] theorem sched_fmd (d : Voice) (s : State) : (sched d s).fmd = s.fmd := rfl
@[simp] theorem sched_en (d : Voice) (s : State) : (sched d s).en = s.en := rfl
@[simp] theorem sched_yout (d : Voice) (s : State) : (sched d s).yout = s.yout := rfl
@[simp] theorem sched_dac (d : Voice) (s : State) : (sched d s).dac = s.dac := rfl
@[simp] theorem sched_inbox (d : Voice) (s : State) : (sched d s).inbox = s.inbox := rfl
@[simp] theorem sched_arrivals (d : Voice) (s : State) : (sched d s).arrivals = s.arrivals := rfl
@[simp] theorem sched_resp (d : Voice) (s : State) : (sched d s).resp = s.resp := rfl

@[simp] theorem sched_rr (d : Voice) (s : State) : (sched d s).rr = d + 1 := rfl
@[simp] theorem sched_hb (d : Voice) (s : State) : (sched d s).hb = hbAfter d s.hb := rfl
@[simp] theorem sched_scnt (d : Voice) (s : State) : (sched d s).scnt = s.scnt + 1 := rfl
@[simp] theorem sched_voice (d : Voice) (s : State) (v : Voice) : (sched d s).voice v = s.voice v := rfl

@[simp] theorem filterStep_voices (m : Int) (s : State) : (filterStep m s).voices = s.voices := by
  unfold filterStep; split <;> rfl
@[simp] theorem filterStep_cutoff (m : Int) (s : State) : (filterStep m s).cutoff = s.cutoff := by
  unfold filterStep; split <;> rfl
@[simp] theorem filterStep_res (m : Int) (s : State) : (filterStep m s).res = s.res := by
  unfold filterStep; split <;> rfl
@[simp] theorem filterStep_fmd (m : Int) (s : State) : (filterStep m s).fmd = s.fmd := by
  unfold filterStep; split <;> rfl
@[simp] theorem filterStep_rr (m : Int) (s : State) : (filterStep m s).rr = s.rr := by
  unfold filterStep; split <;> rfl
@[simp] theorem filterStep_hb (m : Int) (s : State) : (filterStep m s).hb = s.hb := by
  unfold filterStep; split <;> rfl
@[simp] theorem filterStep_scnt (m : Int) (s : State) : (filterStep m s).scnt = s.scnt := by
  unfold filterStep; split <;> rfl
@[simp] theorem filterStep_en (m : Int) (s : State) : (filterStep m s).en = s.en := by
  unfold filterStep; split <;> rfl
@[simp] theorem filterStep_yout (m : Int) (s : State) : (filterStep m s).yout = s.yout := by
  unfold filterStep; split <;> rfl
@[simp] theorem filterStep_dac (m : Int) (s : State) : (filterStep m s).dac = s.dac := by
  unfold filterStep; split <;> rfl
@[simp] theorem filterStep_inbox (m : Int) (s : State) : (filterStep m s).inbox = s.inbox := by
  unfold filterStep; split <;> rfl
@[simp] theorem filterStep_arrivals (m : Int) (s : State) : (filterStep m s).arrivals = s.arrivals := by
  unfold filterStep; split <;> rfl
@[simp] theorem filterStep_resp (m : Int) (s : State) : (filterStep m s).resp = s.resp := by
  unfold filterStep; split <;> rfl
@[simp] theorem filterStep_voice (m : Int) (s : State) (v : Voice) : (filterStep m s).voice v = s.voice v := by
  simp [State.voice_def]

end Sys2Proof.Machine
end

