-- ==== Sys2Proof/Laws/Assembler.lean ====
section
/-! SUPPORT. What the text operations of the assembler do, said once. -/

namespace Sys2Proof.Machine

/-! ### Splitting and trimming -/

/-- Text with no separator is one part. -/
theorem splitText_clean {sep : Char → Bool} {l : List Char} (h : ∀ c ∈ l, sep c = false) : splitText sep l = [l] := by
  induction l with
  | nil => rfl
  | cons c l ih => simp [splitText, h c (by simp), ih (fun d hd => h d (by simp [hd]))]

/-- The text before the first separator is the first part. -/
theorem splitText_at {sep : Char → Bool} {l m : List Char} {k : Char} (h : ∀ c ∈ l, sep c = false) (hk : sep k = true) :
    splitText sep (l ++ k :: m) = l :: splitText sep m := by
  induction l with
  | nil => simp [splitText, hk]
  | cons c l ih => simp [splitText, h c (by simp), ih (fun d hd => h d (by simp [hd]))]

theorem dropWhile_isBlank {l : List Char} (h : ∀ c, l.head? = some c → isBlank c = false) : l.dropWhile isBlank = l := by
  cases l with
  | nil => rfl
  | cons c l => simp [h c rfl]

/-- Text with no blank at either end is trimmed already. -/
theorem trimText_of_ends {l : List Char} (h : ∀ c, l.head? = some c → isBlank c = false)
    (h' : ∀ c, l.getLast? = some c → isBlank c = false) : trimText l = l := by
  unfold trimText
  rw [dropWhile_isBlank h, dropWhile_isBlank, List.reverse_reverse]
  intro c hc
  rw [List.head?_reverse] at hc
  exact h' c hc

@[simp] theorem trimText_space (l : List Char) : trimText (' ' :: l) = trimText l := by
  simp [trimText, isBlank]

/-! ### Numbers -/

theorem digitValue_digitChar {b d : Nat} (hd : d < b) (hb : b ≤ 16) : digitValue b (Nat.digitChar d) = some d := by
  interval_cases b <;> interval_cases d <;> decide

theorem digitsFrom_append (b : Nat) (l m : List Char) (a : Nat) :
    digitsFrom b (l ++ m) a = (digitsFrom b l a).bind (digitsFrom b m) := by
  induction l generalizing a with
  | nil => rfl
  | cons c l ih => simp only [List.cons_append, digitsFrom]; split <;> simp_all

/-! ### Statements (30_encoding R68) -/

/-- A mnemonic that is no directive stands for its statement's word. -/
theorem statementEvents_command {name : List Char} {c : Opcode} (fs : Nat) (operands : List (List Char))
    (h : name ≠ "SAMPLE".toList) (h' : name ≠ "RESET".toList) (h'' : name ≠ "SETPITCHF".toList)
    (hl : mnemonics.lookup name = some c) :
    statementEvents fs name operands = (statementWord c operands).map fun w => [.cmd w] := by
  simp only [statementEvents, h, h', h'', if_false, hl]

end Sys2Proof.Machine
end

