-- ==== Sys2Proof/Laws/Decode.lean ====
section
/-! SUPPORT. The fields of an assembled word, and the opcode map read both ways. -/

namespace Sys2Proof

theorem assembleFields_toNat (op : BitVec 8) (v : BitVec 2) (imm : BitVec 16) :
    (assembleFields op v imm).toNat = op.toNat * 2 ^ 24 + v.toNat * 2 ^ 16 + imm.toNat := by
  have ho := op.isLt; have hv := v.isLt; have hi := imm.isLt
  unfold assembleFields
  have h1 : (op ++ 0#6).toNat = op.toNat * 2 ^ 6 := by
    rw [BitVec.toNat_append, Nat.shiftLeft_eq]
    simp
  have h2 : (op ++ 0#6 ++ v).toNat = op.toNat * 2 ^ 8 + v.toNat := by
    rw [BitVec.toNat_append, h1, ← Nat.shiftLeft_add_eq_or_of_lt hv, Nat.shiftLeft_eq]
    omega
  rw [BitVec.toNat_append, h2, ← Nat.shiftLeft_add_eq_or_of_lt hi, Nat.shiftLeft_eq]
  omega

@[simp] theorem opField_assembleFields (op : BitVec 8) (v : BitVec 2) (imm : BitVec 16) :
    opField (assembleFields op v imm) = op := by
  have ho := op.isLt; have hv := v.isLt; have hi := imm.isLt
  apply BitVec.eq_of_toNat_eq
  rw [opField, BitVec.extractLsb'_toNat, assembleFields_toNat, Nat.shiftRight_eq_div_pow]
  omega

@[simp] theorem immField_assembleFields (op : BitVec 8) (v : BitVec 2) (imm : BitVec 16) :
    immField (assembleFields op v imm) = imm := by
  have ho := op.isLt; have hv := v.isLt; have hi := imm.isLt
  apply BitVec.eq_of_toNat_eq
  rw [immField, BitVec.extractLsb'_toNat, assembleFields_toNat, Nat.shiftRight_eq_div_pow]
  omega

@[simp] theorem voiceField_assembleFields (op : BitVec 8) (v : BitVec 2) (imm : BitVec 16) :
    voiceField (assembleFields op v imm) = v.toFin := by
  have ho := op.isLt; have hv := v.isLt; have hi := imm.isLt
  unfold voiceField
  congr 1
  apply BitVec.eq_of_toNat_eq
  rw [BitVec.extractLsb'_toNat, assembleFields_toNat, Nat.shiftRight_eq_div_pow]
  omega

@[simp] theorem imm8_assembleFields (op : BitVec 8) (v : BitVec 2) (x : BitVec 8) :
    imm8 (assembleFields op v (x.setWidth 16)) = x := by
  have ho := op.isLt; have hv := v.isLt; have hi := x.isLt
  apply BitVec.eq_of_toNat_eq
  rw [imm8, BitVec.extractLsb'_toNat, assembleFields_toNat, Nat.shiftRight_eq_div_pow, BitVec.toNat_setWidth]
  omega

@[simp] theorem imm7_assembleFields (op : BitVec 8) (v : BitVec 2) (x : BitVec 7) :
    imm7 (assembleFields op v (x.setWidth 16)) = x := by
  have ho := op.isLt; have hv := v.isLt; have hi := x.isLt
  apply BitVec.eq_of_toNat_eq
  rw [imm7, BitVec.extractLsb'_toNat, assembleFields_toNat, Nat.shiftRight_eq_div_pow, BitVec.toNat_setWidth]
  omega

@[simp] theorem opcodeOf_number (c : Opcode) : opcodeOf c.number = some c := by
  cases c <;> rfl

/-- The opcode map is read both ways (30_encoding R63). -/
theorem opcodeOf_eq_some {op : BitVec 8} {c : Opcode} : opcodeOf op = some c ↔ op = c.number := by
  constructor
  · intro h
    unfold opcodeOf at h
    split at h <;> simp only [Option.some.injEq, reduceCtorEq] at h
    all_goals
      subst h
      apply BitVec.eq_of_toNat_eq
      assumption
  · rintro rfl
    exact opcodeOf_number c

/-- What the decoder answers: one of three, in the order of 30_encoding R65. -/
theorem decode_cases (w : CmdWord) :
    (opcodeOf (opField w) = none ∧ decode w = .error .illegalOpcode) ∨
    (∃ c : Opcode, opField w = c.number ∧ w &&& c.mask ≠ c.matchBits ∧ decode w = .error .reservedField) ∨
    (∃ c : Opcode, opField w = c.number ∧ w &&& c.mask = c.matchBits ∧ decode w = .ok (operandsOf c w)) := by
  cases h : opcodeOf (opField w) with
  | none => exact .inl ⟨rfl, by simp [decode, h]⟩
  | some c =>
    have hc := opcodeOf_eq_some.1 h
    by_cases hm : w &&& c.mask = c.matchBits
    · exact .inr (.inr ⟨c, hc, hm, by simp [decode, h, hm]⟩)
    · exact .inr (.inl ⟨c, hc, hm, by simp [decode, h, hm]⟩)

@[simp] theorem opcode_operandsOf (c : Opcode) (w : CmdWord) : (operandsOf c w).opcode = c := by
  cases c <;> rfl

/-- What decodes, and to what: the word meets its command's mask, and its operands are the word's fields. -/
theorem decode_eq_ok {w : CmdWord} {i : Instr} (h : decode w = .ok i) :
    w &&& i.opcode.mask = i.opcode.matchBits ∧ i = operandsOf i.opcode w := by
  rcases decode_cases w with ⟨-, e⟩ | ⟨c, -, -, e⟩ | ⟨c, -, h2, e⟩ <;> rw [e] at h <;> cases h
  rw [opcode_operandsOf]
  exact ⟨h2, rfl⟩

end Sys2Proof
end

