-- ==== Sys2Proof/Laws/Ops.lean ====
section
/-! SUPPORT. One lemma for each shared operation, saying once everything it can do. -/

namespace Sys2Proof.Machine

/-! ### ROM reads (20_memory R43) -/

theorem waveRead_legal (T : Tables) {w : BitVec 3} (h : w.toNat < 6) (i : Byte) :
    waveRead T w i = some (T.wave ⟨w.toNat, h⟩ i) := by
  simp [waveRead, h]

theorem waveRead_illegal (T : Tables) {w : BitVec 3} (h : ¬ w.toNat < 6) (i : Byte) : waveRead T w i = none := by
  simp [waveRead, h]

theorem envRead_legal (T : Tables) {e : BitVec 3} (h : e.toNat < 5) (j : BitVec 7) :
    envRead T e j = some (T.env ⟨e.toNat, h⟩ j) := by
  simp [envRead, h]

theorem envRead_illegal (T : Tables) {e : BitVec 3} (h : ¬ e.toNat < 5) (j : BitVec 7) : envRead T e j = none := by
  simp [envRead, h]

/-! ### Answers (30_encoding R62, 60_exceptions R141) -/

@[simp] theorem okWord_zero : okWord 0 = 0x00000000#32 := by decide

@[simp] theorem refusedAnswer_okWord (x : Word) : refusedAnswer (okWord x) = false := by
  have h : (okWord x).toNat < 2 ^ 31 := by
    have := x.isLt
    have e : (okWord x).toNat = x.toNat := by
      unfold okWord
      rw [BitVec.toNat_append]
      simp
    omega
  simp [refusedAnswer, BitVec.getLsbD, Nat.testBit_lt_two_pow h]

@[simp] theorem refusedAnswer_errorWord (c : Cause) : refusedAnswer (errorWord c) = true := by
  cases c <;> decide

@[simp] theorem dataOf_okWord (x : Word) : dataOf (okWord x) = x := by
  apply BitVec.eq_of_toNat_eq
  have := x.isLt
  unfold dataOf okWord
  rw [BitVec.extractLsb'_toNat, BitVec.toNat_append]
  simp
  omega

/-! ### Shifts (00_scope R8) -/

/-- `asr x k` is the floor of the exact quotient. -/
theorem asr_spec (x : Int) (k : Nat) : asr x k * 2 ^ k ≤ x ∧ x < (asr x k + 1) * 2 ^ k := by
  have hk : (0 : Int) < 2 ^ k := by positivity
  exact ⟨Int.ediv_mul_le x hk.ne', Int.lt_ediv_add_one_mul_self x hk⟩

/-! ### Narrowing (40_sample_step R88) -/

/-- A value that fits a signed 16-bit register is stored as it is. -/
theorem store16_toInt {z : Int} (h : -32768 ≤ z) (h' : z ≤ 32767) : (store16 z).toInt = z := by
  simp only [store16, BitVec.toInt_ofInt, Int.bmod_def]
  omega

/-- What a 16-bit register keeps of a value, read unsigned. -/
theorem store16_toNat (z : Int) : ((store16 z).toNat : Int) = z % 65536 := by
  simp only [store16, BitVec.toNat_ofInt]
  omega

/-- What an 8-bit register keeps of a value, read unsigned. -/
theorem store8_toNat (z : Int) : ((store8 z).toNat : Int) = z % 256 := by
  simp only [store8, BitVec.toNat_ofInt]
  omega

/-! ### Operands (30_encoding R64) -/

theorem waveSelect_legal (id : BitVec 8) : (waveSelect id).toNat ≤ 5 := by
  unfold waveSelect
  split
  · simp; omega
  · simp

theorem envSelect_legal (id : BitVec 8) : (envSelect id).toNat ≤ 4 := by
  unfold envSelect
  split
  · simp; omega
  · simp

theorem centred_toInt (value : BitVec 7) : (centred value).toInt = (value.toNat : Int) - 64 := by
  have := value.isLt
  simp only [centred, store8, BitVec.toInt_ofInt, Int.bmod_def]
  omega

theorem centred_legal (value : BitVec 7) : depthLegal (centred value) := by
  have := value.isLt
  simp only [depthLegal, centred_toInt]
  omega

/-- `octaveOffset` answers `12 * delta` exactly for the legal operands, and nothing for the others. -/
theorem octaveOffset_cases (delta : BitVec 8) :
    (octaveLegal delta = true ∧ ∃ x, octaveOffset delta = some x ∧ x.toInt = 12 * delta.toInt) ∨
    (octaveLegal delta = false ∧ octaveOffset delta = none) := by
  by_cases h : delta.toInt < -10 ∨ delta.toInt > 10
  · refine .inr ⟨?_, by simp [octaveOffset, h]⟩
    simp only [octaveLegal, decide_eq_false_iff_not]
    omega
  · refine .inl ⟨?_, store8 (12 * delta.toInt), by simp [octaveOffset, h], ?_⟩
    · simp only [octaveLegal, decide_eq_true_eq]
      omega
    · simp only [store8, BitVec.toInt_ofInt, Int.bmod_def]
      omega

/-- `shiftedNote` answers the sum when it is a table index, and nothing otherwise. -/
theorem shiftedNote_cases (note : BitVec 7) (o : Byte) :
    (0 ≤ (note.toNat : Int) + o.toInt ∧ (note.toNat : Int) + o.toInt ≤ 127 ∧
      ∃ n, shiftedNote note o = some n ∧ (n.toNat : Int) = note.toNat + o.toInt) ∨
    (((note.toNat : Int) + o.toInt < 0 ∨ (note.toNat : Int) + o.toInt > 127) ∧ shiftedNote note o = none) := by
  by_cases h : (note.toNat : Int) + o.toInt < 0 ∨ (note.toNat : Int) + o.toInt > 127
  · exact .inr ⟨h, by simp [shiftedNote, h]⟩
  · refine .inl ⟨by omega, by omega, BitVec.ofInt 7 ((note.toNat : Int) + o.toInt), by simp [shiftedNote, h], ?_⟩
    simp only [BitVec.toNat_ofInt]
    omega

/-! ### Registers by number (20_memory R41, R42) -/

/-- A pair is read exactly when it names a register. -/
theorem regRead_isSome (s : State) (v : Voice) (r : BitVec 8) : (regRead s v r).isSome = registerNamed v r := by
  have hv : (voiceImage (s.voice v) r.toNat).isSome = decide (r.toNat ≤ 9) := by
    generalize s.voice v = g
    revert r
    have key : ∀ n : Fin 256, (voiceImage g n.val).isSome = decide (n.val ≤ 9) := by
      intro n
      by_cases h : n.val ≤ 9
      · obtain ⟨n, hn⟩ := n
        simp only at h ⊢
        interval_cases n <;> rfl
      · have : voiceImage g n.val = none := by
          unfold voiceImage
          split <;> first | rfl | (exfalso; omega)
        simp [this, h]
    intro r
    exact key ⟨r.toNat, r.isLt⟩
  have hs : (sharedImage s r.toNat).isSome = decide (0x10 ≤ r.toNat ∧ r.toNat ≤ 0x1C) := by
    by_cases h : 0x10 ≤ r.toNat ∧ r.toNat ≤ 0x1C
    · generalize r.toNat = n at h ⊢
      obtain ⟨h1, h2⟩ := h
      interval_cases n <;> rfl
    · have : sharedImage s r.toNat = none := by
        unfold sharedImage
        split <;> first | rfl | (exfalso; omega)
      simp [this, h]
  unfold regRead registerNamed
  cases hx : voiceImage (s.voice v) r.toNat with
  | some x =>
    rw [hx] at hv
    simp only [Option.isSome_some] at hv ⊢
    have : r.toNat ≤ 9 := by simpa using hv.symm
    simp [this]
  | none =>
    rw [hx] at hv
    have h9 : ¬ r.toNat ≤ 9 := by simpa using hv
    by_cases h0 : v = 0
    · subst h0
      simp only [if_true, hs]
      congr 1
      simp [h9]
    · simp [h0, h9]

/-! ### The envelope slot (42 R96) -/

/-- Bit 15 splits the accumulator's range in two (42 R96: 0 to 32767 active, 32768 to 65535 free). -/
theorem topBit_eq (x : Word) : topBit x = decide (32768 ≤ x.toNat) := by
  have hx := x.isLt
  have := BitVec.msb_eq_decide x
  simpa [topBit, BitVec.msb_eq_getLsbD_last] using this


/-- What one slot of a voice does: the free branch, the active branch, or a table that is not there. -/
theorem envSlot_cases (T : Tables) (g : VoiceRegs) :
    (topBit g.eacc = true ∧ envSlot T g = some { g with amp := 0 }) ∨
    (topBit g.eacc = false ∧ ∃ h : g.esel.toNat < 5, envSlot T g =
      some { g with eacc := g.eacc + g.erate, amp := T.env ⟨g.esel.toNat, h⟩ (envIndex (g.eacc + g.erate)) }) ∨
    (topBit g.eacc = false ∧ ¬ g.esel.toNat < 5 ∧ envSlot T g = none) := by
  cases hb : topBit g.eacc with
  | true => exact .inl ⟨rfl, by simp [envSlot, hb]⟩
  | false =>
    by_cases h : g.esel.toNat < 5
    · exact .inr (.inl ⟨rfl, h, by simp [envSlot, hb, envRead_legal T h]⟩)
    · exact .inr (.inr ⟨rfl, h, by simp [envSlot, hb, envRead_illegal T h]⟩)

/-- What a completed slot left behind: only `EACC` and `AMP` can differ, and how (42 R96). -/
theorem envSlot_effect {T : Tables} {g g' : VoiceRegs} (h : envSlot T g = some g') :
    g' = { g with eacc := g'.eacc, amp := g'.amp } ∧
    (g.eacc.toNat < 32768 → g'.eacc = g.eacc + g.erate ∧
      ∃ h : g.esel.toNat < 5, g'.amp = T.env ⟨g.esel.toNat, h⟩ (envIndex g'.eacc)) ∧
    (32768 ≤ g.eacc.toNat → g'.eacc = g.eacc ∧ g'.amp = 0) := by
  rcases envSlot_cases T g with ⟨hb, e⟩ | ⟨hb, hl, e⟩ | ⟨-, -, e⟩ <;> rw [e] at h <;> cases h <;> rw [topBit_eq] at hb
  · have : 32768 ≤ g.eacc.toNat := by simpa using hb
    exact ⟨rfl, fun h => by omega, fun _ => ⟨rfl, rfl⟩⟩
  · have : g.eacc.toNat < 32768 := by simpa using hb
    exact ⟨rfl, fun _ => ⟨rfl, hl, rfl⟩, fun h => by omega⟩

/-! ### The oscillators (41 R90) -/

/-- With legal selectors every lane has its sample. -/
theorem oscSamples_legal (T : Tables) (s : State) (h : ∀ v, (s.voice v).wsel.toNat < 6) :
    ∃ smp, oscSamples T s = some smp ∧
      ∀ v, smp.get v = T.wave ⟨(s.voice v).wsel.toNat, h v⟩ (upperByte (phaseNext (s.voice v))) := by
  have hl : ∀ v, laneSample T (s.voice v) =
      some (T.wave ⟨(s.voice v).wsel.toNat, h v⟩ (upperByte (phaseNext (s.voice v)))) :=
    fun v => waveRead_legal T (h v) _
  have h0 := hl 0; have h1 := hl 1; have h2 := hl 2; have h3 := hl 3
  simp only [State.voice, Bank.get] at h0 h1 h2 h3
  refine ⟨⟨_, _, _, _⟩, by simp only [oscSamples, h0, h1, h2, h3]; rfl, fun v => ?_⟩
  rcases voice_cases v with rfl | rfl | rfl | rfl <;> rfl

end Sys2Proof.Machine
end

