-- ==== Sys2Proof/Laws/HostRecipe.lean ====
section
/-! SUPPORT. What a host conversation does, command by command. -/

namespace Sys2Proof.Machine

/-- The state after a conversation is reached command by command. -/
theorem converse_state {i : Instr} {s t : State} (h : exec i s = .next t) (is : List Instr) :
    (converse (i :: is) s).2 = (converse is t).2 := by
  simp only [converse, h]

/-- A read in a conversation answers the register's image and leaves every register alone. -/
theorem converse_read {s : State} {v : Voice} {r : BitVec 8} {x : Word} (h : regRead s v r = some x)
    (is : List Instr) :
    converse (.rdreg v r :: is) s = (x :: (converse is (s.respond x)).1, (converse is (s.respond x)).2) := by
  have e : exec (.rdreg v r) s = .next (s.respond x) := by simp only [exec, execRdreg, h]
  simp only [converse, e]
  simp

/-- Answering changes no register image. -/
theorem regRead_respond (s : State) (x : Word) (v : Voice) (r : BitVec 8) :
    regRead (s.respond x) v r = regRead s v r := rfl

/-- The assembler's word for a fraction is the one the real frequency expands to (30_encoding R72). -/
theorem setpitchfAt_expands {fs den : Nat} (hfs : 0 < fs) (hden : 0 < den) (v : Voice) (num : Nat) :
    SetpitchfExpands fs v (num / den) (setpitchfAt fs v num den) := by
  have hd : 0 < den * fs := Nat.mul_pos hden hfs
  have hd' : (0 : ℝ) < den * fs := by exact_mod_cast hd
  have e : (num / den : ℝ) * 65536 / fs = (num * 65536 : Nat) / (den * fs : Nat) := by
    push_cast
    field_simp
  refine ⟨num * 65536 / (den * fs), ?_, ?_, rfl⟩ <;> rw [e]
  · exact Nat.cast_div_le
  · rw [div_lt_iff₀ (by exact_mod_cast hd)]
    exact_mod_cast Nat.lt_mul_of_div_lt (Nat.lt_succ_self _) hd

end Sys2Proof.Machine
end

