-- ==== Sys2Proof/Laws/PerInstr.lean ====
section
/-! SUPPORT. What holds of every command as syntax, one lemma for each constructor. -/

namespace Sys2Proof.Laws

/-- The word of a command carries the command's own opcode number (30_encoding R63). -/
def OpcodeCarried.Statement (i : Instr) : Prop := opcodeOf (opField (encode i)) = some i.opcode

/-- The operands are read back from the word a command is written as (30_encoding R64). -/
def OperandsRead.Statement (i : Instr) : Prop := operandsOf i.opcode (encode i) = i

theorem OpcodeCarried.setwave (v : Voice) (id : BitVec 8) : OpcodeCarried.Statement (.setwave v id) := by
  simp [OpcodeCarried.Statement, encode, Instr.opcode]
theorem OpcodeCarried.setpitchn (v : Voice) (note : BitVec 7) : OpcodeCarried.Statement (.setpitchn v note) := by
  simp [OpcodeCarried.Statement, encode, Instr.opcode]
theorem OpcodeCarried.setpitchw (v : Voice) (word : BitVec 16) : OpcodeCarried.Statement (.setpitchw v word) := by
  simp [OpcodeCarried.Statement, encode, Instr.opcode]
theorem OpcodeCarried.setenv (v : Voice) (id : BitVec 8) : OpcodeCarried.Statement (.setenv v id) := by
  simp [OpcodeCarried.Statement, encode, Instr.opcode]
theorem OpcodeCarried.seteratel (v : Voice) (len : BitVec 7) : OpcodeCarried.Statement (.seteratel v len) := by
  simp [OpcodeCarried.Statement, encode, Instr.opcode]
theorem OpcodeCarried.seteratew (v : Voice) (word : BitVec 16) : OpcodeCarried.Statement (.seteratew v word) := by
  simp [OpcodeCarried.Statement, encode, Instr.opcode]
theorem OpcodeCarried.setmod (v : Voice) (value : BitVec 7) : OpcodeCarried.Statement (.setmod v value) := by
  simp [OpcodeCarried.Statement, encode, Instr.opcode]
theorem OpcodeCarried.setfmod (value : BitVec 7) : OpcodeCarried.Statement (.setfmod value) := by
  simp [OpcodeCarried.Statement, encode, Instr.opcode]
theorem OpcodeCarried.setcut (cutoff : BitVec 8) : OpcodeCarried.Statement (.setcut cutoff) := by
  simp [OpcodeCarried.Statement, encode, Instr.opcode]
theorem OpcodeCarried.setres (resonance : BitVec 8) : OpcodeCarried.Statement (.setres resonance) := by
  simp [OpcodeCarried.Statement, encode, Instr.opcode]
theorem OpcodeCarried.setoct (v : Voice) (delta : BitVec 8) : OpcodeCarried.Statement (.setoct v delta) := by
  simp [OpcodeCarried.Statement, encode, Instr.opcode]
theorem OpcodeCarried.trign (v : Voice) (note : BitVec 7) : OpcodeCarried.Statement (.trign v note) := by
  simp [OpcodeCarried.Statement, encode, Instr.opcode]
theorem OpcodeCarried.trig (v : Voice) : OpcodeCarried.Statement (.trig v) := by
  simp [OpcodeCarried.Statement, encode, Instr.opcode]
theorem OpcodeCarried.isfree (v : Voice) : OpcodeCarried.Statement (.isfree v) := by
  simp [OpcodeCarried.Statement, encode, Instr.opcode]
theorem OpcodeCarried.tick : OpcodeCarried.Statement .tick := by
  simp [OpcodeCarried.Statement, encode, Instr.opcode]
theorem OpcodeCarried.suspend : OpcodeCarried.Statement .suspend := by
  simp [OpcodeCarried.Statement, encode, Instr.opcode]
theorem OpcodeCarried.resume : OpcodeCarried.Statement .resume := by
  simp [OpcodeCarried.Statement, encode, Instr.opcode]
theorem OpcodeCarried.rdreg (v : Voice) (r : BitVec 8) : OpcodeCarried.Statement (.rdreg v r) := by
  simp [OpcodeCarried.Statement, encode, Instr.opcode]

theorem OperandsRead.setwave (v : Voice) (id : BitVec 8) : OperandsRead.Statement (.setwave v id) := by
  simp [OperandsRead.Statement, encode, operandsOf, Instr.opcode, Instr.voiceBits, Instr.immBits]
theorem OperandsRead.setpitchn (v : Voice) (note : BitVec 7) : OperandsRead.Statement (.setpitchn v note) := by
  simp [OperandsRead.Statement, encode, operandsOf, Instr.opcode, Instr.voiceBits, Instr.immBits]
theorem OperandsRead.setpitchw (v : Voice) (word : BitVec 16) : OperandsRead.Statement (.setpitchw v word) := by
  simp [OperandsRead.Statement, encode, operandsOf, Instr.opcode, Instr.voiceBits, Instr.immBits]
theorem OperandsRead.setenv (v : Voice) (id : BitVec 8) : OperandsRead.Statement (.setenv v id) := by
  simp [OperandsRead.Statement, encode, operandsOf, Instr.opcode, Instr.voiceBits, Instr.immBits]
theorem OperandsRead.seteratel (v : Voice) (len : BitVec 7) : OperandsRead.Statement (.seteratel v len) := by
  simp [OperandsRead.Statement, encode, operandsOf, Instr.opcode, Instr.voiceBits, Instr.immBits]
theorem OperandsRead.seteratew (v : Voice) (word : BitVec 16) : OperandsRead.Statement (.seteratew v word) := by
  simp [OperandsRead.Statement, encode, operandsOf, Instr.opcode, Instr.voiceBits, Instr.immBits]
theorem OperandsRead.setmod (v : Voice) (value : BitVec 7) : OperandsRead.Statement (.setmod v value) := by
  simp [OperandsRead.Statement, encode, operandsOf, Instr.opcode, Instr.voiceBits, Instr.immBits]
theorem OperandsRead.setfmod (value : BitVec 7) : OperandsRead.Statement (.setfmod value) := by
  simp [OperandsRead.Statement, encode, operandsOf, Instr.opcode, Instr.voiceBits, Instr.immBits]
theorem OperandsRead.setcut (cutoff : BitVec 8) : OperandsRead.Statement (.setcut cutoff) := by
  simp [OperandsRead.Statement, encode, operandsOf, Instr.opcode, Instr.voiceBits, Instr.immBits]
theorem OperandsRead.setres (resonance : BitVec 8) : OperandsRead.Statement (.setres resonance) := by
  simp [OperandsRead.Statement, encode, operandsOf, Instr.opcode, Instr.voiceBits, Instr.immBits]
theorem OperandsRead.setoct (v : Voice) (delta : BitVec 8) : OperandsRead.Statement (.setoct v delta) := by
  simp [OperandsRead.Statement, encode, operandsOf, Instr.opcode, Instr.voiceBits, Instr.immBits]
theorem OperandsRead.trign (v : Voice) (note : BitVec 7) : OperandsRead.Statement (.trign v note) := by
  simp [OperandsRead.Statement, encode, operandsOf, Instr.opcode, Instr.voiceBits, Instr.immBits]
theorem OperandsRead.trig (v : Voice) : OperandsRead.Statement (.trig v) := by
  simp [OperandsRead.Statement, encode, operandsOf, Instr.opcode, Instr.voiceBits, Instr.immBits]
theorem OperandsRead.isfree (v : Voice) : OperandsRead.Statement (.isfree v) := by
  simp [OperandsRead.Statement, encode, operandsOf, Instr.opcode, Instr.voiceBits, Instr.immBits]
theorem OperandsRead.tick : OperandsRead.Statement .tick := rfl
theorem OperandsRead.suspend : OperandsRead.Statement .suspend := rfl
theorem OperandsRead.resume : OperandsRead.Statement .resume := rfl
theorem OperandsRead.rdreg (v : Voice) (r : BitVec 8) : OperandsRead.Statement (.rdreg v r) := by
  simp [OperandsRead.Statement, encode, operandsOf, Instr.opcode, Instr.voiceBits, Instr.immBits]

end Sys2Proof.Laws
end

