-- ==== Sys2Proof/Laws/Step.lean ====
section
/-! SUPPORT. What one event and one step can do, said once. -/

namespace Sys2Proof.Machine

/-- A placed event is the next one. -/
theorem takeEvent_placed {s : State} {e : Event} {rest : List Event} (h : s.inbox = e :: rest) :
    takeEvent s = (e, { s with inbox := rest }) := by
  simp [takeEvent, h]

/-- With nothing placed, whatever arrives is the next one. -/
theorem takeEvent_empty {s : State} (h : s.inbox = []) :
    takeEvent s = (Config.arrival s.arrivals, { s with arrivals := s.arrivals + 1 }) := by
  simp [takeEvent, h]

/-- Taking an event touches no register. -/
theorem takeEvent_frame (s : State) :
    ∃ inbox arrivals, (takeEvent s).2 = { s with inbox := inbox, arrivals := arrivals } := by
  cases h : s.inbox with
  | nil => exact ⟨s.inbox, s.arrivals + 1, by rw [takeEvent_empty h]⟩
  | cons e rest => exact ⟨rest, s.arrivals, by rw [takeEvent_placed h]⟩

/-- The three outcomes of a command word (30_encoding R65). -/
theorem command_cases (w : CmdWord) (s : State) :
    (∃ c, decode w = .error c ∧ command w s = .next (s.raiseError c)) ∨
    (∃ i, decode w = .ok i ∧ command w s = exec i s) := by
  cases h : decode w with
  | error c => exact .inl ⟨c, rfl, by simp [command, h]⟩
  | ok i => exact .inr ⟨i, rfl, by simp [command, h]⟩

/-- A command always ends in a next state: its effect, or the error answer (60_exceptions R156). -/
theorem exec_next (i : Instr) (s : State) : ∃ t, exec i s = .next t := by
  cases i with
  | setoct v delta =>
    rcases octaveOffset_cases delta with ⟨-, x, hx, -⟩ | ⟨-, hx⟩
    · exact ⟨_, by simp only [exec, execSetoct, hx]; rfl⟩
    · exact ⟨_, by simp only [exec, execSetoct, hx]; rfl⟩
  | rdreg v r =>
    cases h : regRead s v r with
    | none => exact ⟨_, by simp only [exec, execRdreg, h]; rfl⟩
    | some x => exact ⟨_, by simp only [exec, execRdreg, h]; rfl⟩
  | _ => exact ⟨_, rfl⟩

/-- Every command word is answered. -/
theorem command_next (w : CmdWord) (s : State) : ∃ t, command w s = .next t := by
  rcases command_cases w s with ⟨c, -, h⟩ | ⟨i, -, h⟩
  · exact ⟨_, h⟩
  · rw [h]; exact exec_next i s

/-- A slot leaves the selectors alone. -/
theorem envSlot_selectors {T : Tables} {g g' : VoiceRegs} (h : envSlot T g = some g') :
    g'.wsel = g.wsel ∧ g'.esel = g.esel := by
  rcases envSlot_cases T g with ⟨-, e⟩ | ⟨-, _, e⟩ | ⟨-, -, e⟩ <;> rw [e] at h
  · cases h; exact ⟨rfl, rfl⟩
  · cases h; exact ⟨rfl, rfl⟩
  · cases h

/-- The sample step: all seven phases, or a stop at a table that is not there. -/
theorem sampleStep_cases (T : Tables) (s : State) :
    (∃ g smp, envSlot T (s.voice s.rr) = some g ∧ oscSamples T (s.setVoice s.rr g) = some smp ∧
      sampleStep T s = .next (finishSample s.rr smp (s.setVoice s.rr g))) ∨
    (¬ s.selectorsLegal ∧ ∃ f, sampleStep T s = .fault f) := by
  cases he : envSlot T (s.voice s.rr) with
  | none =>
    refine .inr ⟨fun hsel => ?_, .envSelector, by simp [sampleStep, envStep, he]⟩
    rcases envSlot_cases T (s.voice s.rr) with ⟨-, e⟩ | ⟨-, _, e⟩ | ⟨-, hl, -⟩
    · simp [he] at e
    · simp [he] at e
    · exact hl (Nat.lt_succ_of_le (hsel s.rr).2)
  | some g =>
    cases ho : oscSamples T (s.setVoice s.rr g) with
    | some smp => exact .inl ⟨g, smp, rfl, ho, by simp [sampleStep, envStep, he, ho]⟩
    | none =>
      refine .inr ⟨fun hsel => ?_, .waveSelector, by simp [sampleStep, envStep, he, ho]⟩
      obtain ⟨smp, hs, -⟩ := oscSamples_legal T (s.setVoice s.rr g) fun v => by
        rw [State.voice_setVoice]
        split
        · rw [(envSlot_selectors he).1]; exact Nat.lt_succ_of_le (hsel s.rr).1
        · exact Nat.lt_succ_of_le (hsel v).1
      simp [ho] at hs

/-- What a `SAMPLE` event can do: nothing (40_sample_step R84), the whole sample step, or a stop at a table that is not there. -/
theorem sampleEvent_cases (T : Tables) (s : State) :
    (s.en = false ∧ sampleEvent T s = .next s.silent) ∨
    (s.en = true ∧ ∃ g smp, envSlot T (s.voice s.rr) = some g ∧ oscSamples T (s.silent.setVoice s.rr g) = some smp ∧
      sampleEvent T s = .next (finishSample s.rr smp (s.silent.setVoice s.rr g))) ∨
    (s.en = true ∧ ¬ s.selectorsLegal ∧ ∃ f, sampleEvent T s = .fault f) := by
  cases hen : s.en with
  | false => exact .inl ⟨rfl, by simp [sampleEvent, hen]⟩
  | true =>
    have e : sampleEvent T s = sampleStep T s.silent := by simp [sampleEvent, hen]
    rw [e]
    rcases sampleStep_cases T s.silent with ⟨g, smp, h1, h2, h3⟩ | ⟨h1, h2⟩
    · exact .inr (.inl ⟨rfl, g, smp, h1, h2, h3⟩)
    · exact .inr (.inr ⟨rfl, h1, h2⟩)

/-- With legal selectors a sample event always has a next state (40_sample_step R85). -/
theorem sampleEvent_next (T : Tables) (s : State) (h : s.selectorsLegal) : ∃ t, sampleEvent T s = .next t := by
  rcases sampleEvent_cases T s with ⟨-, e⟩ | ⟨-, _, _, -, -, e⟩ | ⟨-, hn, -⟩
  · exact ⟨_, e⟩
  · exact ⟨_, e⟩
  · exact absurd h hn

/-- Where a `CMD(w)` event that gave a next state came from: the error answer, or the command's meaning. -/
theorem command_outcome {w : CmdWord} {s t : State} (h : perform (.cmd w) s = .next t) :
    (∃ c, decode w = .error c ∧ t = s.raiseError c) ∨ (∃ i, decode w = .ok i ∧ exec i s = .next t) := by
  rcases command_cases w s with ⟨c, hd, e⟩ | ⟨i, hd, e⟩ <;> rw [perform, e] at h
  · cases h; exact .inl ⟨c, hd, rfl⟩
  · exact .inr ⟨i, hd, h⟩

/-- The voices after the phases that follow the envelope slot: every accumulator moved by its old word, and the
slot's voice got its new word (41 R90, 45 R115). -/
theorem finishSample_voice (d : Voice) (smp : Bank Byte) (s : State) (v : Voice) :
    (finishSample d smp s).voice v =
      if v = d then
        { s.voice d with
          phase := (s.voice d).phase + (s.voice d).tw
          tw := pitchWord (s.voice d).pb (s.voice d).eacc (s.voice d).md }
      else laneAdvance (s.voice v) := by
  simp only [finishSample, sched_voice, pitchStep, State.voice_setVoice, output_voice, filterStep_voice,
    oscAdvance_voice]
  split <;> rfl

/-- Where a `SAMPLE` event that gave a next state came from, voice by voice: nothing happened (40 R84), or the slot
`g` of voice `RR` and the phases after it. -/
theorem sample_outcome {s t : State} (h : perform .sample s = .next t) :
    (s.en = false ∧ t = s.silent) ∨
    (s.en = true ∧ ∃ g smp, envSlot Config.tables (s.voice s.rr) = some g ∧
      oscSamples Config.tables (s.silent.setVoice s.rr g) = some smp ∧
      t = finishSample s.rr smp (s.silent.setVoice s.rr g) ∧
      ∀ v, t.voice v = if v = s.rr then { g with phase := g.phase + g.tw, tw := pitchWord g.pb g.eacc g.md }
        else laneAdvance (s.voice v)) := by
  rcases sampleEvent_cases Config.tables s with ⟨h1, e⟩ | ⟨h1, g, smp, hg, ho, e⟩ | ⟨-, -, f, e⟩ <;>
    rw [perform, e] at h <;> cases h
  · exact .inl ⟨h1, rfl⟩
  · refine .inr ⟨h1, g, smp, hg, ho, rfl, fun v => ?_⟩
    rw [finishSample_voice]
    split
    · simp
    · rename_i hd
      simp [State.voice_setVoice, hd]

/-- A run of one step more. -/
theorem run_succ (k : Nat) {s t : State} (h : step s = .next t) :
    Sys2Proof.core.run (k + 1) s = Sys2Proof.core.run k t := by
  have h' : Sys2Proof.core.step s = .next t := h
  simp only [Host.Core.run, h']

end Sys2Proof.Machine
end

