-- ==== Sys2Proof/Tests/Slice0.lean ====
section
/-! SUPPORT. Tests. Words, responses and numbers are those of 95_test_vectors (TCFG, sections 3 to 10) and of the rules' own worked examples, none taken from the model. Witnesses that hypotheses of statements can be met stand at the end. -/

open Sys2Proof Sys2Proof.Machine

namespace Sys2Proof.Tests

/-! ### Helpers -/

/-- The tables TCFG of 95_test_vectors section 2. -/
def tcfg : Tables where
  wave w i := match w with
    | 0 => i
    | 1 => if i.toNat < 128 then store8 (2 * i.toNat - 128) else store8 (383 - 2 * i.toNat)
    | 2 => if i.toNat < 128 then 127 else store8 (-128)
    | 3 => store8 (127 - i.toNat)
    | 4 => store8 (i.toNat - 128)
    | 5 => store8 ((73 * i.toNat + 41 : Nat) : Int)
  env e j := match e with
    | 0 => BitVec.ofNat 8 (255 - 2 * j.toNat)
    | 1 => BitVec.ofNat 8 (2 * j.toNat)
    | 2 => 255
    | 3 => BitVec.ofNat 8 j.toNat
    | 4 => BitVec.ofNat 8 (255 - j.toNat)
  note n := BitVec.ofNat 16 (256 + 32 * n.toNat)
  len l := BitVec.ofNat 16 (4096 - 32 * l.toNat)

/-- The next state, if there is one. -/
def nextState : Result → Option State
  | .next t => some t
  | .fault _ => none
  | .refused _ => none

/-- The response of a command word. -/
def answer (w : CmdWord) (s : State) : Option CmdWord := (nextState (command w s)).bind State.resp

/-- A voice with three registers chosen. -/
def voiceOf (pb : Word) (eacc : Word) (md : Byte) : VoiceRegs := { VoiceRegs.reset with pb := pb, eacc := eacc, md := md }

/-- After reset, running. -/
def running : State := { State.reset with en := true }

/-- Running, with a busy voice 0 whose accumulator and rate are chosen. -/
def busy (eacc erate : Word) : State :=
  running.setVoice 0 { VoiceRegs.reset with eacc := eacc, erate := erate, tw := 0x1000, pb := 0x1000 }

/-! ### WellFormed: an ill-formed command for each check, refused by it -/

theorem test_wellFormed_refuses_octave_above : Instr.wellFormed (.setoct 0 11) = false := by decide
theorem test_wellFormed_refuses_octave_below : Instr.wellFormed (.setoct 0 (-11)) = false := by decide
theorem test_wellFormed_takes_octave_ends :
    Instr.wellFormed (.setoct 0 (-10)) = true ∧ Instr.wellFormed (.setoct 0 10) = true := by decide
theorem test_wellFormed_refuses_unused_register : Instr.wellFormed (.rdreg 0 0x0A) = false := by decide
theorem test_wellFormed_refuses_shared_register_of_voice : Instr.wellFormed (.rdreg 1 0x10) = false := by decide
theorem test_wellFormed_refuses_register_past_end : Instr.wellFormed (.rdreg 0 0x1D) = false := by decide
theorem test_wellFormed_takes_register_ends :
    Instr.wellFormed (.rdreg 3 0x09) = true ∧ Instr.wellFormed (.rdreg 0 0x1C) = true := by decide

/-! ### Decode: a word for every command, written out in 95_test_vectors sections 8 and 10 -/

theorem test_decode_setwave : decodeTableWord 32 0x01030007 = some (.setwave 3 7) := by decide
theorem test_decode_setpitchn : decodeTableWord 32 0x0200007F = some (.setpitchn 0 127) := by decide
theorem test_decode_setpitchw : decodeTableWord 32 0x03014000 = some (.setpitchw 1 0x4000) := by decide
theorem test_decode_setenv : decodeTableWord 32 0x04030004 = some (.setenv 3 4) := by decide
theorem test_decode_seteratel : decodeTableWord 32 0x05020000 = some (.seteratel 2 0) := by decide
theorem test_decode_seteratew : decodeTableWord 32 0x0603FFFF = some (.seteratew 3 0xFFFF) := by decide
theorem test_decode_setmod : decodeTableWord 32 0x0701007F = some (.setmod 1 127) := by decide
theorem test_decode_setfmod : decodeTableWord 32 0x0800000A = some (.setfmod 10) := by decide
theorem test_decode_setcut : decodeTableWord 32 0x09000080 = some (.setcut 128) := by decide
theorem test_decode_setres : decodeTableWord 32 0x0A000040 = some (.setres 64) := by decide
theorem test_decode_setoct : decodeTableWord 32 0x0B0000F6 = some (.setoct 0 (-10)) := by decide
theorem test_decode_trign : decodeTableWord 32 0x0C020030 = some (.trign 2 48) := by decide
theorem test_decode_trig : decodeTableWord 32 0x0D010000 = some (.trig 1) := by decide
theorem test_decode_isfree : decodeTableWord 32 0x0E030000 = some (.isfree 3) := by decide
theorem test_decode_tick : decodeTableWord 32 0x0F000000 = some .tick := by decide
theorem test_decode_suspend : decodeTableWord 32 0x10000000 = some .suspend := by decide
theorem test_decode_resume : decodeTableWord 32 0x11000000 = some .resume := by decide
theorem test_decode_rdreg : decodeTableWord 32 0x12010006 = some (.rdreg 1 6) := by decide

/-- Section 8's unassigned opcodes: cause 1, also before the reserved bits are looked at. -/
theorem test_decode_unassigned :
    [0x00000000#32, 0x13000000#32, 0xFF000000#32, 0xFFFFFFFF#32, 0x13FFFFFF#32].map decode =
      List.replicate 5 (.error .illegalOpcode) := by rfl

/-- Section 8's must-be-zero bits, one for each kind of field: `rsv`, the voice of an S format, and high operand bits. -/
theorem test_decode_reserved :
    [0x01040000#32, 0x01000100#32, 0x02000080#32, 0x0801000A#32, 0x09000100#32, 0x0D000001#32, 0x0F010000#32,
      0x11800000#32, 0x12000100#32, 0x0B04000B#32, 0x0C040077#32].map decode =
      List.replicate 11 (.error .reservedField) := by rfl

theorem test_encode_setoct : encode (.setoct 0 (-10)) = 0x0B0000F6#32 := by decide
theorem test_encode_trign : encode (.trign 2 48) = 0x0C020030#32 := by decide

/-! ### The assembler (30_encoding R68, R72) -/

theorem test_assemble_signed_octave :
    assembleLine 16000 "SETOCT 0, -10   ; section 8".toList = some [.cmd 0x0B0000F6#32] := by decide
theorem test_assemble_hexadecimal :
    assembleLine 16000 "SETPITCHW 1, 0x4000".toList = some [.cmd 0x03014000#32] := by decide
theorem test_assemble_refuses_wide_operand : assembleLine 16000 "SETPITCHN 0, 128".toList = none := by decide
/-- R72's worked example: 440 Hz at 16 kHz is `floor(440 * 65536 / 16000) = 1802 = 0x070A`. -/
theorem test_setpitchf_440 : setpitchfAt 16000 0 440 1 = .setpitchw 0 0x070A := by decide
theorem test_assemble_setpitchf :
    assembleLine 16000 "SETPITCHF 0, 440".toList = some [.cmd 0x0300070A#32] ∧
    assembleLine 16000 "SETPITCHF 0, 0x1B8".toList = some [.cmd 0x0300070A#32] := by decide
/-- Section 8's `TRIGN 2, 48` through the mnemonic, and S-7b's script lines. -/
theorem test_assemble_trign : assembleLine 16000 "TRIGN 2, 48".toList = some [.cmd 0x0C020030#32] := by decide
theorem test_assemble_script :
    assembleScript 16000 "RESUME\n; start\nTRIG 0".toList = some [.cmd 0x11000000#32, .cmd 0x0D000000#32] := by decide
theorem test_assemble_samples : assembleLine 16000 "SAMPLE 3".toList = some [.sample, .sample, .sample] := by decide

/-! ### Commands (95_test_vectors section 8 and the rules' examples) -/

theorem test_setwave_unknown_id : (waveSelect 7, waveSelect 255, waveSelect 5) = (0, 0, 5) := by decide
theorem test_setenv_unknown_id : (envSelect 5, envSelect 4, envSelect 0) = (0, 4, 0) := by decide
theorem test_setpitchn_tcfg :
    ((loadPitchNote tcfg 0 127 State.reset).voice 0).pb = 0x10E0#16 ∧
    ((loadPitchNote tcfg 0 127 State.reset).voice 0).tw = 0x0000#16 := by decide
theorem test_setpitchw :
    (nextState (command 0x03014000#32 State.reset)).map (fun t => (t.voice 1).pb) = some 0x4000#16 := by decide
theorem test_seteratel_tcfg : ((loadRateLength tcfg 2 0 State.reset).voice 2).erate = 0x1000#16 := by decide
theorem test_seteratew :
    (nextState (command 0x06000100#32 State.reset)).map (fun t => (t.voice 0).erate) = some 0x0100#16 := by decide
theorem test_setmod_ends :
    (nextState (command 0x07010000#32 State.reset)).map (fun t => (t.voice 1).md.toInt) = some (-64) ∧
    (nextState (command 0x0701007F#32 State.reset)).map (fun t => (t.voice 1).md.toInt) = some 63 := by decide
theorem test_setfmod : (nextState (command 0x0800000A#32 State.reset)).map (fun t => t.fmd.toInt) = some (-54) := by
  decide
theorem test_setcut : (nextState (command 0x09000080#32 State.reset)).map State.cutoff = some 128 := by decide
theorem test_setres : (nextState (command 0x0A000040#32 State.reset)).map State.res = some 64 := by decide
theorem test_setoct :
    (nextState (command 0x0B0000F6#32 State.reset)).map (fun t => (t.voice 0).octoff.toInt) = some (-120) := by decide
theorem test_setoct_refused :
    answer 0x0B00000B#32 State.reset = some 0xB0000000#32 ∧ answer 0x0B0000F5#32 State.reset = some 0xB0000000#32 := by
  decide
/-- R132: with `OCTOFF[2] = 12`, `TRIGN 2, 48` takes note 60 and writes `PB = TW = 0x0880`, `EACC = 0`. -/
theorem test_trign_tcfg :
    (fun t : State => ((t.voice 2).pb, (t.voice 2).tw, (t.voice 2).eacc))
      (trignWith tcfg 2 48 (State.reset.setVoice 2 { VoiceRegs.reset with octoff := 12 })) =
      (0x0880#16, 0x0880#16, 0x0000#16) := by decide
theorem test_trign_refused :
    answer 0x0C000077#32 (State.reset.setVoice 0 { VoiceRegs.reset with octoff := -120 }) = some 0xC0000000#32 ∧
    answer 0x0C000008#32 (State.reset.setVoice 0 { VoiceRegs.reset with octoff := 120 }) = some 0xC0000000#32 := by
  decide
theorem test_trig :
    (nextState (command 0x0D000000#32 (State.reset.setVoice 0 (voiceOf 0x1000 0x8000 5)))).map
      (fun t => ((t.voice 0).eacc, (t.voice 0).tw)) = some (0x0000#16, 0x1000#16) := by decide
theorem test_isfree :
    answer 0x0E010000#32 State.reset = some 0x00000001#32 ∧
    answer 0x0E000000#32 (State.reset.setVoice 0 (voiceOf 0 0 0)) = some 0x00000000#32 := by decide
theorem test_tick :
    (nextState (command 0x0F000000#32 { State.reset with hb := true })).map (fun t => (t.resp, t.hb)) =
      some (some 0x00000001#32, false) := by decide
theorem test_suspend : (nextState (command 0x10000000#32 running)).map State.en = some false := by decide
theorem test_resume : (nextState (command 0x11000000#32 State.reset)).map State.en = some true := by decide
theorem test_rdreg_signed :
    answer 0x12010006#32 (State.reset.setVoice 1 (voiceOf 0 0 63)) = some 0x0000003F#32 ∧
    answer 0x12000015#32 { State.reset with fmd := -54 } = some 0x0000FFCA#32 := by decide
theorem test_rdreg_after_reset :
    [0x12000004#32, 0x1200001B#32, 0x12000013#32, 0x1200000A#32, 0x12010010#32].map (fun w => answer w State.reset) =
      [some 0x00008000#32, some 0x0000007F#32, some 0x000000FF#32, some 0xB0000000#32, some 0xB0000000#32] := by
  decide
/-- Section 8: a refused `TICK` does not clear `HB`. -/
theorem test_refused_tick_keeps_heartbeat :
    (nextState (command 0x0F010000#32 { State.reset with hb := true })).map (fun t => (t.resp, t.hb)) =
      some (some 0xA0000000#32, true) := by decide

/-! ### The phases of the sample step (sections 3 to 7) -/

/-- O-2, O-4, O-7: the sample at the new accumulator value, with the wrap. -/
theorem test_oscillator_lane :
    laneSample tcfg { VoiceRegs.reset with phase := 0xFF00, tw := 0x0100, wsel := 0 } = some 0 ∧
    laneSample tcfg { VoiceRegs.reset with phase := 0x1234, tw := 0xFFFF, wsel := 4 } = some (store8 (-110)) ∧
    laneSample tcfg { VoiceRegs.reset with phase := 0x00FF, tw := 0x0001, wsel := 5 } = some 114 := by decide
/-- E-1, E-2 (crossing), E-3 (wrapped back), E-5 (free). -/
theorem test_envelope_slot :
    [(0x1F80, 0x0100, 1), (0x7F00, 0x0200, 1), (0x7000, 0x9000, 0), (0xFFFF, 0xFFFF, 2)].map
      (fun x : Word × Word × BitVec 3 =>
        (envSlot tcfg { VoiceRegs.reset with eacc := x.1, erate := x.2.1, esel := x.2.2 }).map
          fun g => (g.eacc, g.amp)) =
      [some (0x2080#16, 64#8), some (0x8100#16, 2#8), some (0x0000#16, 255#8), some (0xFFFF#16, 0#8)] := by decide
/-- MX-2, MX-3, MX-6, MX-9. -/
theorem test_mixer :
    mix ⟨store8 (-128), store8 (-128), store8 (-128), store8 (-128)⟩ ⟨255, 255, 255, 255⟩ = -128 ∧
    mix ⟨127, store8 (-128), 127, store8 (-128)⟩ ⟨255, 255, 255, 255⟩ = -1 ∧
    mix ⟨100, store8 (-50), 25, store8 (-12)⟩ ⟨200, 100, 50, 25⟩ = 15 ∧
    mix ⟨store8 (-3), 0, 0, 0⟩ ⟨128, 0, 0, 0⟩ = -1 := by decide
/-- F-4, F-8, F-9 and the bypass F-3. -/
theorem test_filter :
    [((100, -100, 50), 254, 0, 77), ((-5, 7, -9), 1, 255, -128), ((1000, 2000, 3000), 200, 255, 126),
      ((100, -100, 50), 255, 200, 77)].map
      (fun x : (Int × Int × Int) × Byte × Byte × Int =>
        let s := { State.reset with
          f0 := store16 x.1.1, f1 := store16 x.1.2.1, f2 := store16 x.1.2.2, cutoff := x.2.1, res := x.2.2.1 }
        let t := filterStep x.2.2.2 s
        ((t.f0.toInt, t.f1.toInt, t.f2.toInt), filterOut x.2.2.2 s)) =
      [((-99, 49, 77), -99), ((-5, 6, -123), -5), ((1777, 2773, -1644), 1777), ((100, -100, 50), 77)] := by decide
/-- Section 6, output narrowing. -/
theorem test_output_narrowing :
    [0, 15, -32, 128, 129, -127, -128, -300, 1777].map (fun y => (output y State.reset).dac) =
      [127#8, 142#8, 95#8, 255#8, 0#8, 0#8, 255#8, 83#8, 112#8] := by decide
/-- M-1, M-2, M-5, M-7 (no 16-bit product), M-10, M-12. -/
theorem test_pitch_word :
    [(0x0400, 0x4000, 10), (0x0400, 0x4000, -64), (0xFFFF, 0xFFFF, 63), (0xC8B1, 0x7FFF, 63), (0x0040, 0x1FC0, 63),
      (0x042F, 0x4000, -20)].map (fun x : Word × Word × Byte => pitchWord x.1 x.2.1 x.2.2) =
      [0x0540#16, 0xFC00#16, 0xDC0F#16, 0xDC70#16, 0x0040#16, 0x01AF#16] := by decide
/-- Q-7: the counter wraps and the heartbeat rises at the end of voice 3's step. -/
theorem test_sequencer_wrap :
    (nextState (sampleEvent tcfg { running with scnt := 0xFFFFFFFF, rr := 3 })).map
      (fun t => (t.scnt, t.rr, t.hb)) = some (0#32, 0, true) := by decide
/-- P1, `SCNT` 1: one performed step, every phase in it. -/
theorem test_sample_step_p1 :
    (nextState (sampleEvent tcfg (running.setVoice 0
      { VoiceRegs.reset with tw := 0x1000, pb := 0x1000, eacc := 0, erate := 0x0100, esel := 2 }))).map
      (fun t => ((t.voice 0).phase, (t.voice 0).amp, (t.voice 0).eacc, t.yout, t.dac, t.rr, t.scnt)) =
      some (0x1000#16, 255#8, 0x0100#16, 3#16, 130#8, 1, 1#32) := by decide
/-- P2, step 5: a step through the filter, voice 1 sounding, slot of voice 0. -/
theorem test_sample_step_p2 :
    (nextState (sampleEvent tcfg { running.setVoice 1
        { VoiceRegs.reset with phase := 0x0000, tw := 0x4000, pb := 0x4000, amp := 255, eacc := 0x0010, erate := 0x0010,
                               wsel := 2, esel := 2 } with
        cutoff := 128, res := 64, f0 := store16 (-8), f1 := store16 (-24), f2 := 33, rr := 0, scnt := 4 })).map
      (fun t => (t.f0.toInt, t.f1.toInt, t.f2.toInt, t.dac, t.scnt)) = some (-16, 4, 35, 111#8, 5#32) := by decide
/-- Q-1: a tick while suspended does nothing. -/
theorem test_sample_suspended :
    (nextState (sampleEvent tcfg State.reset)).map (fun t => (t.scnt, t.rr, t.dac)) = some (0#32, 0, 127#8) := by decide

/-! ### Steps and the word the host places -/

theorem test_placed_word_runs :
    (nextState (step (State.reset.withFetchWord 32 0x11000000))).map (fun t => (t.en, t.resp, t.inbox)) =
      some (true, some 0x00000000#32, []) := by decide

/-! ### Witnesses: states and operands that meet the hypotheses of the statements -/

/-- Meets the premises of BypassedOutputIsMixOfWaveReads, OutputIsOffsetAndWrapped, TuningWordOfSlotIsRecomputed,
SequencerStepsRoundRobin and (with `EN = 1`) SampleStepAlwaysCompletes. -/
theorem test_running_selectors : running.selectorsLegal ∧ running.en = true ∧ running.cutoff = 255 := by decide
/-- Meets the premises of SuspendedTickChangesNothing, NoEventStopsTheMachine, SuspendAndResumeWriteRunFlag and (with
`EN = 0`) SampleStepAlwaysCompletes. -/
theorem test_reset_selectors : State.reset.selectorsLegal ∧ State.reset.en = false := by decide
theorem test_busy_selectors :
    (busy 0x7FFF 1).selectorsLegal ∧ (busy 0x7FFF 1).en = true ∧
    ((busy 0x7FFF 1).voice (busy 0x7FFF 1).rr).eacc.toNat < 32768 := by decide
/-- Meets the premise of PatchImportRestoresParameters. -/
theorem test_reset_invariant : State.reset.Inv :=
  ⟨by decide, by decide, by decide, by decide, by decide, by decide, by decide, by decide, by decide⟩

theorem test_witness_ResetEventRestoresEveryRegister : ∃ t, exec (.trig 0) State.reset = .next t := ⟨_, rfl⟩
theorem test_witness_NextEventIsPlacedOrArrives :
    ({ State.reset with inbox := [.sample] } : State).inbox = .sample :: [] ∧ State.reset.inbox = [] := by decide
theorem test_witness_StepRunsTheDecodedCommand :
    ({ State.reset with inbox := [.cmd 0x0D000000#32] } : State).inbox = .cmd 0x0D000000#32 :: [] ∧
    decode 0x0D000000#32 = .ok (.trig 0) := ⟨rfl, rfl⟩
theorem test_witness_WordSpellsCommandOnMaskMatch :
    0x0C020030#32 &&& Opcode.trign.mask = Opcode.trign.matchBits ∧
    0x0C020080#32 &&& Opcode.trign.mask ≠ Opcode.trign.matchBits := by decide
theorem test_witness_OperandsTakenFromFields :
    decode 0x0C020030#32 = .ok (.trign 2 48) ∧ decode 0x0F000000#32 = .ok .tick := ⟨rfl, rfl⟩
/-- Each clause of `DecodingChecksInOrder`, at its boundary. -/
theorem test_witness_DecodingChecksInOrder :
    (0x00000000#32).extractLsb' 24 8 = 0x00#8 ∧ 0x13 ≤ ((0x13000000#32).extractLsb' 24 8).toNat ∧
    ((0x12000100#32).extractLsb' 24 8 = Opcode.rdreg.number ∧ 0x12000100#32 &&& Opcode.rdreg.mask ≠ Opcode.rdreg.matchBits) ∧
    0x120000FF#32 &&& Opcode.rdreg.mask = Opcode.rdreg.matchBits ∧
    (BitVec.toInt (-11#8) < -10 ∧ BitVec.toInt (11#8) > 10) ∧
    (¬ ((0x0A#8).toNat ≤ 0x09 ∨ (0x10 ≤ (0x0A#8).toNat ∧ (0x0A#8).toNat ≤ 0x1C ∧ (0 : Voice) = 0)) ∧
      ¬ ((0x10#8).toNat ≤ 0x09 ∨ (0x10 ≤ (0x10#8).toNat ∧ (0x10#8).toNat ≤ 0x1C ∧ (1 : Voice) = 0))) ∧
    ((((119#7).toNat : Int) + BitVec.toInt (-120#8) < 0) ∧ (((8#7).toNat : Int) + BitVec.toInt (120#8) > 127)) := by
  decide
/-- A refused answer of each cause. -/
theorem test_witness_RefusedCommandAnswersItsCause :
    (answer 0x00000000#32 State.reset = some 0x90000000#32 ∧ answer 0x0F010000#32 State.reset = some 0xA0000000#32 ∧
      answer 0x0B00000B#32 State.reset = some 0xB0000000#32 ∧ answer 0x12010010#32 State.reset = some 0xB0000000#32 ∧
      answer 0x0C000008#32 (State.reset.setVoice 0 { VoiceRegs.reset with octoff := 120 }) = some 0xC0000000#32) ∧
    [0x90000000#32, 0xA0000000#32, 0xB0000000#32, 0xC0000000#32].all refusedAnswer = true := by decide
theorem test_witness_EncodeInvertsDecode : decode 0x0B0000F6#32 = .ok (.setoct 0 (-10)) := rfl
/-- Each clause of `AssembledStatementSpellsItsCommand`: numbers at the ends of the fields (the last that fits and the
first that does not), signed octaves likewise, a voice that is no voice, and a word that is written. -/
theorem test_witness_AssembledStatementSpellsItsCommand :
    ["127", "128", "0xFF", "256", "0xFFFF", "65536"].map (fun x => numberText x.toList) =
      [some 127, some 128, some 255, some 256, some 65535, some 65536] ∧
    ["-128", "127", "-129", "128"].map (fun x => signedText x.toList) = [some (-128), some 127, some (-129), some 128] ∧
    (∀ v : Voice, ['4'] ≠ voiceDigit v) ∧ statementWord .setoct ["0".toList, "-10".toList] = some 0x0B0000F6#32 :=
  ⟨rfl, rfl, by decide, rfl⟩
theorem test_witness_LinesAndNumbersAreReadAsWritten :
    (partText "TRIGN".toList ∧ partText "2".toList ∧ partText "0x30".toList) ∧
    '\n' ∉ "SAMPLE 2".toList ∧ assembleLine 16000 "SAMPLE 2".toList = some [.sample, .sample] ∧
    assembleScript 16000 "RESET".toList = some [.reset] :=
  ⟨⟨⟨by simp, by simp⟩, ⟨by simp, by simp⟩, ⟨by simp, by simp⟩⟩, by decide, by decide, by decide⟩
theorem test_witness_DirectivesStandForTheirEvents :
    numberText "0".toList = some 0 ∧ numberText "1".toList = some 1 ∧ 0 < 16000 ∧ digits 10 "440".toList = some 440 ∧
    digits 10 "05".toList = some 5 ∧ numberText "0x1B8".toList = some 440 := by decide
theorem test_witness_DirectivesStandForTheirEvents_real : (0 : ℝ) < 16000 ∧ (0 : ℝ) ≤ 440 := by norm_num
theorem test_witness_SetOctaveStoresTwelvePerOctave :
    (-10 ≤ BitVec.toInt (-10#8) ∧ BitVec.toInt (10#8) ≤ 10) ∧ BitVec.toInt (-11#8) < -10 ∧ BitVec.toInt (11#8) > 10 := by
  decide
theorem test_witness_TriggerAtNoteAppliesOctave :
    (((0#7).toNat : Int) = (120#7).toNat + BitVec.toInt (-120#8) ∧ ((127#7).toNat : Int) = (7#7).toNat + BitVec.toInt (120#8)) ∧
    ((119#7).toNat : Int) + BitVec.toInt (-120#8) < 0 ∧ ((8#7).toNat : Int) + BitVec.toInt (120#8) > 127 := by decide
theorem test_witness_ReadRegisterAnswersImage :
    ((0x09#8).toNat ≤ 0x09 ∧ (0x10 ≤ (0x10#8).toNat ∧ (0x1C#8).toNat ≤ 0x1C)) ∧
    ¬ ((0x1D#8).toNat ≤ 0x09 ∨ (0x10 ≤ (0x1D#8).toNat ∧ (0x1D#8).toNat ≤ 0x1C ∧ (0 : Voice) = 0)) := by decide
theorem test_witness_RegisterMapAsListed :
    (0x0A ≤ (0x0A#8).toNat ∧ (0x0F#8).toNat ≤ 0x0F) ∧ 0x1D ≤ (0x1D#8).toNat ∧
    (0x10 ≤ (0x10#8).toNat ∧ (1 : Voice) ≠ 0) := by decide
theorem test_witness_CommandsWriteOnlyListedRegisters :
    (∃ t, exec (.trign 2 48) State.reset = .next t) ∧ Reg.phase 2 ∉ mayWrite (.trign 2 48) ∧
    (∃ t, exec .tick State.reset = .next t) := ⟨⟨_, rfl⟩, by decide, ⟨_, rfl⟩⟩
theorem test_witness_SampleWritesOnlyListedRegisters :
    (∃ t, perform .sample { running with hb := true } = .next t) ∧ Reg.f0 ∉ sampleMayWrite { running with hb := true } ∧
    (∃ t, perform .sample State.reset = .next t) ∧ Reg.scnt ∉ sampleMayWrite State.reset :=
  ⟨⟨_, rfl⟩, by decide, ⟨_, rfl⟩, by decide⟩
theorem test_witness_FilterUpdatesInStageOrder :
    ({ running with cutoff := 0 } : State).selectorsLegal ∧ ({ running with cutoff := 0 } : State).en = true ∧
    ({ running with cutoff := 0 } : State).cutoff ≠ 255 ∧ ({ running with cutoff := 254 } : State).cutoff ≠ 255 := by
  decide
/-- Both branches of the slot, at the boundary of the range. -/
theorem test_witness_EnvelopeSlotMovesOneVoice :
    (busy 0x7FFF 1).selectorsLegal ∧ (busy 0x7FFF 1).en = true ∧ ((busy 0x7FFF 1).voice 0).eacc.toNat < 32768 ∧
    (busy 0x8000 1).selectorsLegal ∧ (busy 0x8000 1).en = true ∧ 32768 ≤ ((busy 0x8000 1).voice 0).eacc.toNat := by
  decide
theorem test_witness_ZeroDepthLeavesPitchBase :
    (0#8 = 0) ∧ (0x003F#16).toNat < 64 ∧ ¬ (0x0040#16).toNat < 64 := by decide
theorem test_witness_EveryStepKeepsTheInvariant :
    ({ State.reset with inbox := [.sample] } : State).Inv ∧
    ∃ t, step { State.reset with inbox := [.sample] } = .next t :=
  ⟨⟨by decide, by decide, by decide, by decide, by decide, by decide, by decide, by decide, by decide⟩, ⟨_, rfl⟩⟩
/-- A trigger makes a free voice busy; a crossing slot and reset free a busy one. -/
theorem test_witness_FreeBitChangesOnlyByTriggerSlotOrReset :
    (∃ t, perform (.cmd 0x0D000000#32) State.reset = .next t ∧ State.reset.free 0 = true ∧ t.free 0 = false) ∧
    (∃ t, perform .sample (busy 0x7FFF 1) = .next t ∧ (busy 0x7FFF 1).free 0 = false ∧ t.free 0 = true) ∧
    (∃ t, perform .reset (busy 0x7FFF 1) = .next t ∧ t.free 0 = true) :=
  ⟨⟨_, rfl, rfl, rfl⟩, ⟨_, rfl, rfl, rfl⟩, ⟨_, rfl, rfl⟩⟩
theorem test_witness_HeartbeatRisesAtSlotThreeOnly :
    (∃ t, perform .sample { running with rr := 3 } = .next t ∧ t.hb = true) ∧
    (∃ t, perform (.cmd 0x0F000000#32) { running with hb := true } = .next t ∧ t.hb = false) :=
  ⟨⟨_, rfl, rfl⟩, ⟨_, rfl, rfl⟩⟩
theorem test_witness_SampleCounterCountsPerformedSteps : ∃ t, perform .sample running = .next t ∧ t.scnt = 1 :=
  ⟨_, rfl, rfl⟩
theorem test_witness_RunFlagChangesOnlyByRunControl :
    (∃ t, perform (.cmd 0x10000000#32) running = .next t ∧ running.en = true ∧ t.en = false) ∧
    (∃ t, perform (.cmd 0x11000000#32) State.reset = .next t ∧ State.reset.en = false ∧ t.en = true) :=
  ⟨⟨_, rfl, rfl, rfl⟩, ⟨_, rfl, rfl, rfl⟩⟩
theorem test_witness_FilterDepthIsInert :
    (∃ t, perform (.cmd 0x12000014#32) State.reset = .next t) ∧ decode 0x12000014#32 ≠ .ok (.rdreg 0 0x15) :=
  ⟨⟨_, rfl⟩, by rw [show decode 0x12000014#32 = .ok (.rdreg 0 0x14) from rfl]; simp⟩
theorem test_witness_VoicesDoNotDisturbEachOther :
    (1 : Voice) ≠ 0 ∧ (∃ t, perform .sample running = .next t) ∧
    ∃ t, perform .sample (running.setVoice 1 (voiceOf 0xFFFF 0x8001 (-64))) = .next t :=
  ⟨by decide, ⟨_, rfl⟩, ⟨_, rfl⟩⟩
/-- The premises of `PhaseAccumulatesExactly` for two steps. -/
theorem test_witness_PhaseAccumulatesExactly :
    let s : State := { busy 0 0 with inbox := List.replicate 2 .sample }
    s.selectorsLegal ∧ s.en = true ∧ (s.voice 0).md = 0 ∧ (s.voice 0).tw = (s.voice 0).pb ∧
      s.inbox = List.replicate 2 .sample := by decide
/-- The premises of `TriggeredVoiceBecomesFreeInTime`, with `k = 1`, at `n = 4` (free) and `n = 0` (busy). -/
theorem test_witness_TriggeredVoiceBecomesFreeInTime :
    let s : State := { busy 0 0x8000 with inbox := List.replicate 4 .sample }
    s.selectorsLegal ∧ s.en = true ∧ (s.voice 0).eacc = 0 ∧ 1 ≤ (s.voice 0).erate.toNat ∧
      1 = (32768 + (s.voice 0).erate.toNat - 1) / (s.voice 0).erate.toNat ∧ s.inbox = List.replicate 4 .sample ∧
      4 * 1 ≤ 4 ∧ 0 + 3 < 4 * 1 ∧ (busy 0 0x8000).inbox = List.replicate 0 .sample := by decide

theorem test_witness_HeartbeatAnswersOncePerFourSteps :
    let s : State := { running with inbox := [.sample, .cmd 0x0F000000#32] }
    s.selectorsLegal ∧ s.en = true ∧ s.hb = false ∧
      s.inbox = (List.replicate (0 + 1) [Event.sample, .cmd 0x0F000000#32]).flatten := by decide
theorem test_witness_CounterReadRecipeAnswersCount : (0x0001#16 : Word) ≠ 0x0002#16 := by decide

end Sys2Proof.Tests
end

namespace Sys2Proof.Machine

/-! ### The reset registers (10_state R36) -/

/-- Reset gives every voice the same registers. -/
@[simp] theorem State.reset_voice (v : Voice) : State.reset.voice v = VoiceRegs.reset := by
  rcases voice_cases v with rfl | rfl | rfl | rfl <;> rfl

/-! ### What each event does to `HB` (10_state R26) -/

/-- The reset event clears the heartbeat flag. -/
theorem reset_hb {s t : State} (h : perform .reset s = .next t) : t.hb = false := by
  cases h; rfl

/-- Of the phases after the envelope slot only the sequencer touches the heartbeat flag (40 R86). -/
@[simp] theorem finishSample_hb (d : Voice) (smp : Bank Byte) (s : State) :
    (finishSample d smp s).hb = hbAfter d s.hb := by
  simp [finishSample]

/-- The sequencer sets the heartbeat flag after slot 3 and never clears it. -/
theorem hbAfter_eq_or (d : Voice) (hb : Bool) : hbAfter d hb = (hb || decide (d = 3)) := by
  by_cases hd : d = 3 <;> simp [hbAfter, hd]

/-- A sample event sets the heartbeat flag when it performs slot 3, and otherwise keeps it. -/
theorem sample_hb {s t : State} (h : perform .sample s = .next t) :
    t.hb = (s.hb || s.en && decide (s.rr = 3)) := by
  rcases sample_outcome h with ⟨hen, rfl⟩ | ⟨hen, g, smp, -, -, rfl, -⟩
  · simp [hen]
  · simp [hen, hbAfter_eq_or]

/-- `TICK` clears the heartbeat flag (47 R135). -/
theorem exec_tick_hb {s t : State} (h : exec .tick s = .next t) : t.hb = false := by
  cases h; rfl

/-- No other command touches the heartbeat flag. -/
theorem exec_hb_of_ne_tick {i : Instr} {s t : State} (hi : i ≠ .tick) (h : exec i s = .next t) :
    t.hb = s.hb := by
  cases i with
  | tick => exact absurd rfl hi
  | setoct v delta =>
    rcases octaveOffset_cases delta with ⟨-, x, hx, -⟩ | ⟨-, hx⟩ <;>
      simp only [exec, execSetoct, hx] at h <;> cases h <;> rfl
  | trign v note =>
    rcases shiftedNote_cases note (s.voice v).octoff with ⟨-, -, n, hn, -⟩ | ⟨-, hn⟩ <;>
      simp only [exec, execTrign, trignWith, hn] at h <;> cases h <;> rfl
  | rdreg v r =>
    cases hr : regRead s v r <;> simp only [exec, execRdreg, hr] at h <;> cases h <;> rfl
  | _ => cases h; rfl

/-- A command word, refused or performed, keeps the heartbeat flag unless it is `TICK`, which clears it. -/
theorem command_hb {w : CmdWord} {s t : State} (h : perform (.cmd w) s = .next t) :
    t.hb = (s.hb && decide (decode w ≠ .ok .tick)) := by
  rcases command_outcome h with ⟨c, hd, rfl⟩ | ⟨i, hd, he⟩
  · simp [hd]
  · by_cases hi : i = .tick
    · subst hi
      simp [hd, exec_tick_hb he]
    · simp [hd, hi, exec_hb_of_ne_tick hi he]

/-- Number 0x17 reads the heartbeat flag as 0 or 1 (20_memory R41). -/
theorem regRead_hb (s : State) : regRead s 0 0x17 = some (if s.hb then 1 else 0) := by
  have e : regRead s 0 0x17 = some ((BitVec.ofBool s.hb).setWidth 16) := rfl
  rw [e]
  cases s.hb <;> rfl

/-! ### The obligations -/

/-- Settles O1: the registers of a voice, the same for all four, then the shared ones. -/
theorem registersAfterReset : Obligations.RegistersAfterReset := by
  unfold Obligations.RegistersAfterReset
  refine ⟨fun v => ?_, by decide⟩
  simp only [State.reg, State.reset_voice]
  decide

/-- Settles O49: each kind of event through its lemma on `HB`, then where the flag is read. -/
theorem heartbeatRisesAtSlotThreeOnly : Obligations.HeartbeatRisesAtSlotThreeOnly := by
  unfold Obligations.HeartbeatRisesAtSlotThreeOnly
  refine ⟨fun e s t h => ?_, fun s => ⟨rfl, regRead_hb s⟩, rfl⟩
  cases e with
  | reset => simp [reset_hb h]
  | sample =>
    rw [sample_hb h]
    refine ⟨fun _ hen hrr => ?_, fun hlow hhigh => ?_, fun hhigh hlow => ?_⟩
    · simp [hen, hrr]
    · simpa [hlow] using hhigh
    · simp [hhigh] at hlow
  | cmd w =>
    rw [command_hb h]
    refine ⟨nofun, fun hlow hhigh => ?_, fun hhigh hlow => .inr ⟨w, rfl, ?_⟩⟩
    · simp [hlow] at hhigh
    · simpa [hhigh] using hlow

end Sys2Proof.Machine

namespace Sys2Proof.Machine

/-! ### The register map (20_memory R41) -/

/-- Number 0x1A reads the run flag as 0 or 1. -/
theorem regRead_en (s : State) : regRead s 0 0x1A = some (if s.en then 1 else 0) := by
  have e : regRead s 0 0x1A = some ((BitVec.ofBool s.en).setWidth 16) := rfl
  rw [e]
  cases s.en <;> rfl

/-- The pairs that name no register: the two reserved ranges, and a number past the per-voice ones with another
voice than 0. -/
theorem registerNamed_eq_false_iff (v : Voice) (r : BitVec 8) :
    registerNamed v r = false ↔
      (0x0A ≤ r.toNat ∧ r.toNat ≤ 0x0F) ∨ 0x1D ≤ r.toNat ∨ (0x10 ≤ r.toNat ∧ v ≠ 0) := by
  simp only [registerNamed, decide_eq_false_iff_not]
  by_cases hv : v = 0
  · simp only [hv, and_true, ne_eq, not_true, and_false, or_false]
    omega
  · simp only [hv, and_false, or_false, ne_eq, not_false_eq_true, and_true]
    omega

/-- A pair that names no register reads nothing. -/
theorem regRead_eq_none_iff (s : State) (v : Voice) (r : BitVec 8) :
    regRead s v r = none ↔ registerNamed v r = false := by
  rw [← regRead_isSome s v r, Option.isSome_eq_false_iff, Option.isNone_iff_eq_none]

/-- `RDREG` of a pair that reads nothing answers `OperandRange` (47 R138, 60_exceptions R141). -/
theorem exec_rdreg_of_eq_none {s : State} {v : Voice} {r : BitVec 8} (h : regRead s v r = none) :
    exec (.rdreg v r) s = .next { s with resp := some 0xB0000000#32 } := by
  simp only [exec, execRdreg, h]
  rfl

/-- Settles O30: the listed numbers one by one, then the pairs that name no register. -/
theorem registerMapAsListed : Obligations.RegisterMapAsListed := by
  unfold Obligations.RegisterMapAsListed
  refine ⟨fun s v => ?perVoice, fun s => ?shared, fun s v r hr => ?unnamed⟩
  case perVoice => exact ⟨rfl, rfl, rfl, rfl, rfl, rfl, rfl, rfl, rfl, rfl⟩
  case shared => exact ⟨rfl, rfl, rfl, rfl, rfl, rfl, rfl, regRead_hb s, rfl, rfl, regRead_en s, rfl, rfl⟩
  case unnamed =>
    have hnone : regRead s v r = none :=
      (regRead_eq_none_iff s v r).2 ((registerNamed_eq_false_iff v r).2 hr)
    exact ⟨hnone, exec_rdreg_of_eq_none hnone⟩

end Sys2Proof.Machine

namespace Sys2Proof

/-! ### The opcode field and the mask (30_encoding R60, R61) -/

theorem opField_and (w m : CmdWord) : opField (w &&& m) = opField w &&& opField m :=
  BitVec.extractLsb'_and

/-- Every mask fixes the whole opcode field. -/
theorem opField_mask (c : Opcode) : opField c.mask = BitVec.allOnes 8 := by
  cases c <;> rfl

theorem opField_matchBits (c : Opcode) : opField c.matchBits = c.number := by
  cases c <;> rfl

/-- `match = op << 24`, as a number: no opcode bit is shifted out. -/
theorem matchBits_toNat (c : Opcode) : c.matchBits.toNat = c.number.toNat * 2 ^ 24 := by
  cases c <;> rfl

/-- A word that meets a command's mask carries the command's opcode. -/
theorem opField_eq_number {w : CmdWord} {c : Opcode} (h : w &&& c.mask = c.matchBits) : opField w = c.number :=
  calc opField w
    _ = opField w &&& BitVec.allOnes 8 := BitVec.and_allOnes.symm
    _ = opField (w &&& c.mask) := by rw [opField_and, opField_mask]
    _ = c.number := by rw [h, opField_matchBits]

/-! ### The opcode map (30_encoding R63) -/

/-- The assigned opcodes are 0x01 to 0x12, without a gap. -/
theorem exists_opcode_number_iff (op : BitVec 8) :
    (∃ c : Opcode, op = c.number) ↔ 0x01 ≤ op.toNat ∧ op.toNat ≤ 0x12 := by
  constructor
  · rintro ⟨c, rfl⟩
    cases c <;> decide
  · rintro ⟨hlow, hhigh⟩
    have hassigned : ∀ n : Fin 0x12, (opcodeOf (BitVec.ofNat 8 (n.val + 1))).isSome := by decide
    obtain ⟨c, hc⟩ := Option.isSome_iff_exists.1 (hassigned ⟨op.toNat - 1, by omega⟩)
    refine ⟨c, ?_⟩
    rw [← opcodeOf_eq_some.1 hc]
    apply BitVec.eq_of_toNat_eq
    simp only [BitVec.toNat_ofNat]
    omega

/-- The unassigned opcodes are 0x00 and 0x13 to 0xFF. -/
theorem opcodeOf_eq_none_iff (op : BitVec 8) : opcodeOf op = none ↔ op.toNat = 0x00 ∨ 0x13 ≤ op.toNat := by
  have hnone : opcodeOf op = none ↔ ¬ ∃ c : Opcode, op = c.number := by
    simp only [Option.eq_none_iff_forall_ne_some, ne_eq, opcodeOf_eq_some, not_exists]
  rw [hnone, exists_opcode_number_iff]
  omega

/-! ### The decoder's three answers (30_encoding R65, steps 1 and 2) -/

theorem decode_of_unassigned {w : CmdWord} (h : opcodeOf (opField w) = none) :
    decode w = .error .illegalOpcode := by
  simp [decode, h]

theorem decode_of_mask_mismatch {w : CmdWord} {c : Opcode} (hop : opField w = c.number)
    (hm : w &&& c.mask ≠ c.matchBits) : decode w = .error .reservedField := by
  simp [decode, hop, hm]

theorem decode_of_mask_match {w : CmdWord} {c : Opcode} (hm : w &&& c.mask = c.matchBits) :
    decode w = .ok (operandsOf c w) := by
  simp [decode, opField_eq_number hm, hm]

/-- A word meets a command's mask exactly when it decodes to that command (30_encoding R61). -/
theorem mask_match_iff (c : Opcode) (w : CmdWord) :
    w &&& c.mask = c.matchBits ↔ ∃ i, decode w = .ok i ∧ i.opcode = c := by
  constructor
  · intro hm
    exact ⟨operandsOf c w, decode_of_mask_match hm, opcode_operandsOf c w⟩
  · rintro ⟨i, hi, rfl⟩
    exact (decode_eq_ok hi).1

end Sys2Proof

namespace Sys2Proof.Machine

/-! ### What a word answers, by the decoder's answer -/

theorem command_of_decode_error {w : CmdWord} {c : Cause} (h : decode w = .error c) (s : State) :
    command w s = .next (s.raiseError c) := by
  simp [command, h]

theorem command_of_decode_ok {w : CmdWord} {i : Instr} (h : decode w = .ok i) (s : State) :
    command w s = exec i s := by
  simp [command, h]

/-! ### The operand checks (30_encoding R65, step 3) -/

/-- `SETOCT` outside −10 to +10 octaves answers `OperandRange` (46 R130). -/
theorem exec_setoct_of_out_of_range {delta : BitVec 8} (h : delta.toInt < -10 ∨ delta.toInt > 10) (v : Voice)
    (s : State) : exec (.setoct v delta) s = .next (s.raiseError .operandRange) := by
  have hnone : octaveOffset delta = none := if_pos h
  simp only [exec, execSetoct, hnone]

/-- `TRIGN` with a shifted note that is no table index answers `NoteRange` (47 R132). -/
theorem exec_trign_of_out_of_range {s : State} {v : Voice} {note : BitVec 7}
    (h : (note.toNat : Int) + (s.voice v).octoff.toInt < 0 ∨ (note.toNat : Int) + (s.voice v).octoff.toInt > 127) :
    exec (.trign v note) s = .next (s.raiseError .noteRange) := by
  have hnone : shiftedNote note (s.voice v).octoff = none := if_pos h
  simp only [exec, execTrign, trignWith, hnone]

/-! ### The obligations -/

/-- Settles O8: the masks and `match` command by command, then the mask test against the decoder's answer. -/
theorem wordSpellsCommandOnMaskMatch : Obligations.WordSpellsCommandOnMaskMatch := by
  unfold Obligations.WordSpellsCommandOnMaskMatch
  exact ⟨fun c => by cases c <;> rfl, matchBits_toNat, mask_match_iff⟩

/-- Settles O10: steps 1 and 2 through the decoder's answer, step 3 through each checking command's own rule. -/
theorem decodingChecksInOrder : Obligations.DecodingChecksInOrder := by
  unfold Obligations.DecodingChecksInOrder
  intro w s
  refine ⟨fun hop => ?unassigned, fun c hop hm => ?reserved, fun c hm => ?performed, fun v delta hd => ?octave,
    fun v r hr => ?register, fun v note hn => ?note⟩
  case unassigned =>
    have hnone : opcodeOf (opField w) = none :=
      (opcodeOf_eq_none_iff (opField w)).2 (hop.imp_left (congrArg BitVec.toNat))
    exact command_of_decode_error (decode_of_unassigned hnone) s
  case reserved => exact command_of_decode_error (decode_of_mask_mismatch hop hm) s
  case performed => exact command_of_decode_ok (decode_of_mask_match hm) s
  case octave => exact exec_setoct_of_out_of_range hd v s
  case register =>
    have hunnamed : registerNamed v r = false := decide_eq_false hr
    exact exec_rdreg_of_eq_none ((regRead_eq_none_iff s v r).2 hunnamed)
  case note => exact exec_trign_of_out_of_range hn

/-- Settles O7: the 18 rows by evaluation, then the opcodes outside them. -/
theorem opcodeMapAsListed : Obligations.OpcodeMapAsListed := by
  unfold Obligations.OpcodeMapAsListed
  exact ⟨rfl, opcodeOf_eq_none_iff⟩

end Sys2Proof.Machine

namespace Sys2Proof.Machine

/-! ### What the phases after the envelope slot do to `RR`, `SCNT` and the response (40_sample_step R85, R86) -/

@[simp] theorem finishSample_rr (d : Voice) (smp : Bank Byte) (s : State) : (finishSample d smp s).rr = d + 1 := by
  simp [finishSample]

@[simp] theorem finishSample_scnt (d : Voice) (smp : Bank Byte) (s : State) :
    (finishSample d smp s).scnt = s.scnt + 1 := by
  simp [finishSample]

@[simp] theorem finishSample_resp (d : Voice) (smp : Bank Byte) (s : State) :
    (finishSample d smp s).resp = s.resp := by
  simp [finishSample]

/-! ### What a sample event does to them -/

/-- A sample event returns no response, ignored or performed (40_sample_step R85). -/
theorem sample_resp {s t : State} (h : perform .sample s = .next t) : t.resp = none := by
  rcases sample_outcome h with ⟨-, rfl⟩ | ⟨-, g, smp, -, -, rfl, -⟩
  · exact State.silent_resp s
  · simp

/-- A performed step moves the slot index to the next voice and counts itself. -/
theorem sample_rr_scnt {s t : State} (hen : s.en = true) (h : perform .sample s = .next t) :
    t.rr = s.rr + 1 ∧ t.scnt = s.scnt + 1 := by
  rcases sample_outcome h with ⟨hoff, -⟩ | ⟨-, g, smp, -, -, rfl, -⟩
  · simp [hen] at hoff
  · simp

/-- While suspended a sample event only drops the last response (40_sample_step R84). -/
theorem sample_suspended {s : State} (hen : s.en = false) : perform .sample s = .next s.silent := by
  rcases sampleEvent_cases Config.tables s with ⟨-, e⟩ | ⟨hon, -⟩ | ⟨hon, -⟩
  · exact e
  · simp [hen] at hon
  · simp [hen] at hon

/-- The response is no register. -/
@[simp] theorem State.silent_reg (s : State) (r : Reg) : s.silent.reg r = s.reg r := by
  cases r <;> rfl

/-! ### The obligations -/

/-- Settles O34: the event completes by `sampleEvent_next`, and what it completes in is silent by `sample_resp`. -/
theorem sampleStepAlwaysCompletes : Obligations.SampleStepAlwaysCompletes := by
  unfold Obligations.SampleStepAlwaysCompletes
  intro s hsel
  obtain ⟨t, ht⟩ := sampleEvent_next Config.tables s hsel
  exact ⟨t, ht, sample_resp ht⟩

/-- Settles O43: `RR` and `SCNT` as the sequencer leaves them, read as numbers, and `HB` by `sample_hb`. -/
theorem sequencerStepsRoundRobin : Obligations.SequencerStepsRoundRobin := by
  unfold Obligations.SequencerStepsRoundRobin
  intro s hsel hen
  obtain ⟨t, ht⟩ := sampleEvent_next Config.tables s hsel
  obtain ⟨hrr, hscnt⟩ := sample_rr_scnt hen ht
  refine ⟨t, ht, ?slot, ?heartbeat, ?count⟩
  case slot => rw [hrr, Fin.val_add]; rfl
  case heartbeat =>
    calc t.hb
      _ = (s.hb || s.en && decide (s.rr = 3)) := sample_hb ht
      _ = (s.hb || s.rr == 3) := by rw [hen, Bool.true_and]; rfl
      _ = (s.rr == 3 || s.hb) := Bool.or_comm _ _
  case count => rw [hscnt, BitVec.toNat_add]; rfl

/-- Settles O33: the suspended event only drops the response, which is no register. -/
theorem suspendedTickChangesNothing : Obligations.SuspendedTickChangesNothing := by
  unfold Obligations.SuspendedTickChangesNothing
  intro s hen
  exact ⟨s.silent, sample_suspended hen, State.silent_reg s⟩

end Sys2Proof.Machine

namespace Sys2Proof.Machine

/-! ### The samples of a performed step (41_oscillator_bank R90) -/

/-- A wave read that answers was made at a selector that names a table, and answers that table's entry. -/
theorem waveRead_eq_some {T : Tables} {w : BitVec 3} {i x : Byte} (h : waveRead T w i = some x) :
    ∃ hw : w.toNat < 6, x = T.wave ⟨w.toNat, hw⟩ i := by
  by_cases hw : w.toNat < 6
  · rw [waveRead_legal T hw, Option.some.injEq] at h
    exact ⟨hw, h.symm⟩
  · simp [waveRead_illegal T hw] at h

/-- The bank of samples holds each lane's own sample. -/
theorem oscSamples_get {T : Tables} {s : State} {smp : Bank Byte} (h : oscSamples T s = some smp) (v : Voice) :
    laneSample T (s.voice v) = some (smp.get v) := by
  unfold oscSamples at h
  split at h
  next h0 h1 h2 h3 =>
    cases h
    rcases voice_cases v with rfl | rfl | rfl | rfl
    · exact h0
    · exact h1
    · exact h2
    · exact h3
  next => cases h

/-- A slot touches nothing that an oscillator lane reads (42 R96). -/
theorem envSlot_lane {T : Tables} {g g' : VoiceRegs} (h : envSlot T g = some g') :
    g'.phase = g.phase ∧ g'.tw = g.tw ∧ g'.wsel = g.wsel := by
  obtain ⟨hframe, -, -⟩ := envSlot_effect h
  rw [hframe]
  exact ⟨rfl, rfl, rfl⟩

/-- Storing what a slot left gives no lane another sample. -/
theorem laneSample_setVoice_envSlot {T : Tables} {s : State} {d : Voice} {g : VoiceRegs}
    (h : envSlot T (s.voice d) = some g) (v : Voice) :
    laneSample T ((s.setVoice d g).voice v) = laneSample T (s.voice v) := by
  obtain ⟨hphase, htw, hwsel⟩ := envSlot_lane h
  by_cases hv : v = d
  · subst hv
    rw [State.voice_setVoice_self, laneSample, laneSample, phaseNext, phaseNext, hphase, htw, hwsel]
  · rw [State.voice_setVoice_of_ne s g hv]

/-- A performed step moves every accumulator, the slot's too, by its old tuning word. -/
theorem sample_phase {s t : State} (hen : s.en = true) (h : perform .sample s = .next t) (v : Voice) :
    (t.voice v).phase = phaseNext (s.voice v) := by
  rcases sample_outcome h with ⟨hoff, -⟩ | ⟨-, g, smp, hg, -, -, hvoice⟩
  · simp [hen] at hoff
  · obtain ⟨hphase, htw, -⟩ := envSlot_lane hg
    rw [hvoice v]
    by_cases hv : v = s.rr
    · simp [hv, phaseNext, hphase, htw]
    · simp [hv, laneAdvance]

/-- A performed step is `finishSample` on what the slot left (`g`, in the slot's voice), and the samples it mixes are the
wave reads at the new accumulators. -/
theorem sample_finish {s t : State} (hen : s.en = true) (h : perform .sample s = .next t) :
    ∃ g smp, t = finishSample s.rr smp (s.silent.setVoice s.rr g) ∧ samplesOf s t smp := by
  have hphase := sample_phase hen h
  rcases sample_outcome h with ⟨hoff, -⟩ | ⟨-, g, smp, hg, hosc, ht, -⟩
  · simp [hen] at hoff
  · refine ⟨g, smp, ht, fun v => ?_⟩
    have hread : laneSample Config.tables (s.voice v) = some (smp.get v) :=
      (laneSample_setVoice_envSlot (s := s.silent) hg v).symm.trans (oscSamples_get hosc v)
    rw [hphase v]
    exact waveRead_eq_some hread

/-! ### The mixer (43_mixer R102, R103) -/

/-- The exact product lies in -32640 to 32385, and its shift in -128 to 126. -/
theorem mixTerm_range (smp amp : Byte) : -128 ≤ mixTerm smp amp ∧ mixTerm smp amp ≤ 126 := by
  have hlo : -128 ≤ smp.toInt := BitVec.le_toInt smp
  have hhi : smp.toInt < 128 := BitVec.toInt_lt
  have hamp : amp.toNat < 256 := amp.isLt
  obtain ⟨hfloor, hceil⟩ := asr_spec (smp.toInt * amp.toNat) 8
  have hprodLo : -128 * 255 ≤ smp.toInt * amp.toNat := by nlinarith
  have hprodHi : smp.toInt * amp.toNat ≤ 127 * 255 := by nlinarith
  unfold mixTerm
  omega

/-- The mixer stays in -128 to 126. -/
theorem mix_range (smp amp : Bank Byte) : -128 ≤ mix smp amp ∧ mix smp amp ≤ 126 := by
  have h0 := mixTerm_range smp.v0 amp.v0
  have h1 := mixTerm_range smp.v1 amp.v1
  have h2 := mixTerm_range smp.v2 amp.v2
  have h3 := mixTerm_range smp.v3 amp.v3
  unfold mix
  generalize mixTerm smp.v0 amp.v0 = a, mixTerm smp.v1 amp.v1 = b, mixTerm smp.v2 amp.v2 = c,
    mixTerm smp.v3 amp.v3 = d at *
  have hsum := asr_spec (a + b + c + d) 2
  omega

/-- The statements' mix is the mixer's, of the amplitudes in `t`. -/
theorem mixedOf_eq_mix (smp : Bank Byte) (t : State) : mixedOf smp t = mix smp (amplitudes t) := rfl

/-- The phases after the envelope slot leave the amplitudes as it left them. -/
@[simp] theorem amplitudes_finishSample (d : Voice) (smp : Bank Byte) (s : State) :
    amplitudes (finishSample d smp s) = amplitudes s := by
  apply Bank.ext_get
  intro v
  simp only [amplitudes, Bank.get_map, ← State.voice_def, finishSample_voice]
  by_cases hv : v = d <;> simp [hv, laneAdvance]

/-! ### The filter and the output write (44_filter_output R106, R111) -/

theorem filterStep_bypassed {s : State} (hc : s.cutoff = 255) (m : Int) : filterStep m s = s := by
  simp [filterStep, hc]

theorem filterOut_bypassed {s : State} (hc : s.cutoff = 255) (m : Int) : filterOut m s = m := by
  simp [filterOut, hc]

/-- In bypass the phases after the envelope slot put the mix into `YOUT` and keep the filter state. -/
theorem finishSample_bypassed {s : State} (hc : s.cutoff = 255) (d : Voice) (smp : Bank Byte) :
    (finishSample d smp s).yout = store16 (mix smp (amplitudes s)) ∧
    (finishSample d smp s).f0 = s.f0 ∧ (finishSample d smp s).f1 = s.f1 ∧ (finishSample d smp s).f2 = s.f2 := by
  have hc' : (oscAdvance s).cutoff = 255 := hc
  have hamp : amplitudes (oscAdvance s) = amplitudes s := rfl
  simp [finishSample, filterStep_bypassed hc', filterOut_bypassed hc', hamp]

/-! ### The obligation -/

/-- Settles O35: phases by `sample_phase`, samples by `sample_finish`, and the mix fits the 16 bits of `YOUT` by
`mix_range`. -/
theorem bypassedOutputIsMixOfWaveReads : Obligations.BypassedOutputIsMixOfWaveReads := by
  unfold Obligations.BypassedOutputIsMixOfWaveReads
  intro s hsel hen hcut
  obtain ⟨t, ht⟩ := sampleEvent_next Config.tables s hsel
  obtain ⟨g, smp, hfinish, hsmp⟩ := sample_finish hen ht
  obtain ⟨hyout, hf0, hf1, hf2⟩ := finishSample_bypassed (s := s.silent.setVoice s.rr g) hcut s.rr smp
  rw [← hfinish] at hyout hf0 hf1 hf2
  refine ⟨t, smp, ht, ?phases, hsmp, ?output, hf0, hf1, hf2⟩
  case phases =>
    intro v
    rw [sample_phase hen ht v]
    exact BitVec.toNat_add _ _
  case output =>
    obtain ⟨hlo, hhi⟩ := mix_range smp (amplitudes t)
    calc t.yout.toInt
      _ = (store16 (mix smp (amplitudes t))).toInt := by rw [hyout, hfinish, amplitudes_finishSample]
      _ = mix smp (amplitudes t) := store16_toInt (by omega) (by omega)
      _ = mixedOf smp t := (mixedOf_eq_mix smp t).symm

end Sys2Proof.Machine

namespace Sys2Proof.Machine

/-! ### `EACC` and `AMP` after a performed step (42_envelope_voicefree R95) -/

/-- Outside the slot a performed step keeps a voice's accumulator and amplitude. -/
theorem sample_envelope_of_ne {s t : State} {v : Voice} (hen : s.en = true) (h : perform .sample s = .next t)
    (hv : v ≠ s.rr) : (t.voice v).eacc = (s.voice v).eacc ∧ (t.voice v).amp = (s.voice v).amp := by
  rcases sample_outcome h with ⟨hoff, -⟩ | ⟨-, g, smp, -, -, -, hvoice⟩
  · simp [hen] at hoff
  · rw [hvoice v, if_neg hv]
    exact ⟨rfl, rfl⟩

/-- In the slot's voice a performed step ends with the accumulator and the amplitude that the slot left: the phases
after it write neither. -/
theorem sample_envelope_slot {s t : State} (hen : s.en = true) (h : perform .sample s = .next t) :
    ∃ g, envSlot Config.tables (s.voice s.rr) = some g ∧
      (t.voice s.rr).eacc = g.eacc ∧ (t.voice s.rr).amp = g.amp := by
  rcases sample_outcome h with ⟨hoff, -⟩ | ⟨-, g, smp, hg, -, -, hvoice⟩
  · simp [hen] at hoff
  · refine ⟨g, hg, ?_⟩
    rw [hvoice s.rr, if_pos rfl]
    exact ⟨rfl, rfl⟩

/-! ### The obligation -/

/-- Settles O37: the other voices by `sample_envelope_of_ne`; in the slot's voice `sample_envelope_slot` leads back to
the slot, whose two branches are those of `envSlot_effect`. -/
theorem envelopeSlotMovesOneVoice : Obligations.EnvelopeSlotMovesOneVoice := by
  unfold Obligations.EnvelopeSlotMovesOneVoice
  intro s hsel hen
  obtain ⟨t, ht⟩ := sampleEvent_next Config.tables s hsel
  obtain ⟨g, hg, heacc, hamp⟩ := sample_envelope_slot hen ht
  obtain ⟨-, hactive, hfree⟩ := envSlot_effect hg
  rw [← heacc, ← hamp] at hactive hfree
  exact ⟨t, ht, fun v hv => sample_envelope_of_ne hen ht hv, hactive, hfree⟩

end Sys2Proof.Machine

namespace Sys2Proof.Machine

/-! ### Narrowing read as a signed value (40_sample_step R88) -/

/-- What a 16-bit register keeps of a value, read signed: `swrap_16`. -/
theorem store16_toInt_eq_bmod (z : Int) : (store16 z).toInt = z.bmod 65536 :=
  BitVec.toInt_ofInt z

/-- A register's own signed value is stored as it is. -/
@[simp] theorem store16_of_toInt (x : Word) : store16 x.toInt = x :=
  BitVec.ofInt_toInt

/-! ### The output write (44_filter_output R111, R112) -/

/-- `DAC` is 127 plus the value `YOUT` holds, modulo 256, for every `y`: the 16-bit wrap of `YOUT` keeps the low 8 bits
that reach `DAC`. -/
theorem output_dac_of_yout (y : Int) (s : State) :
    ((output y s).dac.toNat : Int) = (127 + (output y s).yout.toInt) % 256 := by
  have hlow : y.bmod 65536 % 256 = y % 256 := by
    rw [Int.bmod_def]
    omega
  rw [output_dac, output_yout, store8_toNat, store16_toInt_eq_bmod]
  omega

/-- The phases after the output write keep the relation of `DAC` to `YOUT`. -/
theorem finishSample_dac_of_yout (d : Voice) (smp : Bank Byte) (s : State) :
    ((finishSample d smp s).dac.toNat : Int) = (127 + (finishSample d smp s).yout.toInt) % 256 := by
  simp only [finishSample, sched_dac, sched_yout, pitchStep_dac, pitchStep_yout, output_dac_of_yout]

/-! ### The new accumulator of a lane (41_oscillator_bank R90) -/

theorem phaseNext_toNat (g : VoiceRegs) : (phaseNext g).toNat = (g.phase.toNat + g.tw.toNat) % 65536 :=
  BitVec.toNat_add _ _

/-! ### The filter's stages (44_filter_output R107) -/

theorem poleNext_toInt (own next : Word) (c : Byte) :
    (poleNext own next c).toInt =
      ((own.toInt * (255 - (c.toNat : Int)) + next.toInt * c.toNat) / 256).bmod 65536 :=
  store16_toInt_eq_bmod _

theorem inputNext_toInt (mixed : Int) (f0 : Word) (r : Byte) :
    (inputNext mixed f0 r).toInt = (mixed - f0.toInt * r.toNat / 256).bmod 65536 :=
  store16_toInt_eq_bmod _

theorem filterStep_filtering {s : State} (hc : s.cutoff ≠ 255) (m : Int) :
    filterStep m s = { s with
      f0 := poleNext s.f0 s.f1 s.cutoff
      f1 := poleNext s.f1 s.f2 s.cutoff
      f2 := inputNext m (poleNext s.f0 s.f1 s.cutoff) s.res } :=
  if_neg hc

theorem filterOut_filtering {s : State} (hc : s.cutoff ≠ 255) (m : Int) :
    filterOut m s = (poleNext s.f0 s.f1 s.cutoff).toInt :=
  if_neg hc

/-- With the filter on, the phases after the envelope slot compute both poles from OLD values and the input stage from
the NEW pole 0, and output that pole. -/
theorem finishSample_filtering {s : State} (hc : s.cutoff ≠ 255) (d : Voice) (smp : Bank Byte) :
    (finishSample d smp s).f0 = poleNext s.f0 s.f1 s.cutoff ∧
    (finishSample d smp s).f1 = poleNext s.f1 s.f2 s.cutoff ∧
    (finishSample d smp s).f2 = inputNext (mix smp (amplitudes s)) (finishSample d smp s).f0 s.res ∧
    (finishSample d smp s).yout = (finishSample d smp s).f0 := by
  have hc' : (oscAdvance s).cutoff ≠ 255 := hc
  have hamp : amplitudes (oscAdvance s) = amplitudes s := rfl
  simp [finishSample, filterStep_filtering hc', filterOut_filtering hc', hamp]

/-! ### The obligations -/

/-- Settles O36: phases by `sample_phase`, samples by `sample_finish`, and the stages by `finishSample_filtering`, each
store read signed. -/
theorem filterUpdatesInStageOrder : Obligations.FilterUpdatesInStageOrder := by
  unfold Obligations.FilterUpdatesInStageOrder
  intro s hsel hen hcut
  obtain ⟨t, ht⟩ := sampleEvent_next Config.tables s hsel
  obtain ⟨g, smp, hfinish, hsmp⟩ := sample_finish hen ht
  have hamp : amplitudes (s.silent.setVoice s.rr g) = amplitudes t := by rw [hfinish, amplitudes_finishSample]
  obtain ⟨hf0, hf1, hf2, hyout⟩ := finishSample_filtering (s := s.silent.setVoice s.rr g) hcut s.rr smp
  rw [← hfinish] at hf0 hf1 hf2 hyout
  refine ⟨t, smp, ht, fun v => ?phase, hsmp, ?pole0, ?pole1, ?input, hyout⟩
  case phase => rw [sample_phase hen ht v, phaseNext_toNat]
  case pole0 => rw [hf0, poleNext_toInt]; rfl
  case pole1 => rw [hf1, poleNext_toInt]; rfl
  case input => rw [hf2, inputNext_toInt, hamp, mixedOf_eq_mix]; rfl

/-- Settles O38: a performed step ends in `finishSample`, which leaves `DAC` and `YOUT` related. -/
theorem outputIsOffsetAndWrapped : Obligations.OutputIsOffsetAndWrapped := by
  unfold Obligations.OutputIsOffsetAndWrapped
  intro s hsel hen
  obtain ⟨t, ht⟩ := sampleEvent_next Config.tables s hsel
  obtain ⟨g, smp, rfl, -⟩ := sample_finish hen ht
  exact ⟨_, ht, finishSample_dac_of_yout s.rr smp _⟩

end Sys2Proof.Machine

namespace Sys2Proof.Machine

/-! ### The pitch word (45_pitch_modulation R114) -/

/-- What a tuning word register keeps of the exact sum, read unsigned. -/
theorem pitchWord_toNat (pb e : Word) (m : Byte) :
    ((pitchWord pb e m).toNat : Int) = ((pb.toNat : Int) + (bendUnit pb e : Int) * m.toInt) % 65536 :=
  store16_toNat _

/-! ### `TW` after a performed step (45_pitch_modulation R115) -/

/-- A slot writes neither of the registers the pitch word takes besides `EACC` (42 R96). -/
theorem envSlot_pitch {T : Tables} {g g' : VoiceRegs} (h : envSlot T g = some g') :
    g'.pb = g.pb ∧ g'.md = g.md := by
  obtain ⟨hframe, -, -⟩ := envSlot_effect h
  rw [hframe]
  exact ⟨rfl, rfl⟩

/-- The slot's voice, free or not, ends a performed step with the word of the accumulator that the step left. -/
theorem sample_tw_slot {s t : State} (hen : s.en = true) (h : perform .sample s = .next t) :
    (t.voice s.rr).tw = pitchWord (s.voice s.rr).pb (t.voice s.rr).eacc (s.voice s.rr).md := by
  rcases sample_outcome h with ⟨hoff, -⟩ | ⟨-, g, smp, hg, -, -, hvoice⟩
  · simp [hen] at hoff
  · obtain ⟨hpb, hmd⟩ := envSlot_pitch hg
    rw [hvoice s.rr, if_pos rfl, ← hpb, ← hmd]

/-- Outside the slot a performed step keeps a voice's tuning word. -/
theorem sample_tw_of_ne {s t : State} {v : Voice} (hen : s.en = true) (h : perform .sample s = .next t)
    (hv : v ≠ s.rr) : (t.voice v).tw = (s.voice v).tw := by
  rcases sample_outcome h with ⟨hoff, -⟩ | ⟨-, g, smp, -, -, -, hvoice⟩
  · simp [hen] at hoff
  · rw [hvoice v, if_neg hv]
    rfl

/-! ### The obligations -/

/-- Settles O40: the divisions of `bendUnit` are those of the statement, `2 ^ 6` being 64. -/
theorem pitchWordIsExactThenWrapped : Obligations.PitchWordIsExactThenWrapped := by
  unfold Obligations.PitchWordIsExactThenWrapped
  intro pb e m
  have hunit : bendUnit pb e = (pb.toNat / 64) * (e.toNat / 64) / 128 := rfl
  rw [pitchWord_toNat, hunit]

/-- Settles O42: the slot's word by `sample_tw_slot`, its phase by `sample_phase`, which reads the word from before the
step, and the other words by `sample_tw_of_ne`. -/
theorem tuningWordOfSlotIsRecomputed : Obligations.TuningWordOfSlotIsRecomputed := by
  unfold Obligations.TuningWordOfSlotIsRecomputed
  intro s hsel hen
  obtain ⟨t, ht⟩ := sampleEvent_next Config.tables s hsel
  exact ⟨t, ht, sample_tw_slot hen ht, sample_phase hen ht s.rr, fun v hv => sample_tw_of_ne hen ht hv⟩

end Sys2Proof.Machine

namespace Sys2Proof.Machine

/-! ### The answer of a performed parameter command (30_encoding R62) -/

/-- `respond(0)` writes the all-zero word and nothing else. -/
theorem State.respond_zero (s : State) : s.respond 0 = { s with resp := some 0x00000000#32 } := by
  rw [State.respond, okWord_zero]

/-! ### What each parameter command does (46_commands_parameters R120 to R130) -/

/-- The id keeps its value in the three bits of `WSEL`, an unrecognised one selects sine. -/
theorem waveSelect_eq (id : BitVec 8) :
    waveSelect id = if id.toNat ≤ 5 then BitVec.ofNat 3 id.toNat else 0 := by
  rw [waveSelect, BitVec.ofNat_toNat]

/-- The id keeps its value in the three bits of `ESEL`, an unrecognised one selects envelope 0. -/
theorem envSelect_eq (id : BitVec 8) :
    envSelect id = if 1 ≤ id.toNat ∧ id.toNat ≤ 4 then BitVec.ofNat 3 id.toNat else 0 := by
  rw [envSelect, BitVec.ofNat_toNat]

section
variable (s : State) (v : Voice)

theorem exec_setwave (id : BitVec 8) : exec (.setwave v id) s = .next
    { s.setVoice v { s.voice v with wsel := waveSelect id } with resp := some 0x00000000#32 } :=
  congrArg Host.Outcome.next (State.respond_zero _)

theorem exec_setpitchn (note : BitVec 7) : exec (.setpitchn v note) s = .next
    { s.setVoice v { s.voice v with pb := Config.tables.note note } with resp := some 0x00000000#32 } :=
  congrArg Host.Outcome.next (State.respond_zero _)

theorem exec_setpitchw (word : BitVec 16) : exec (.setpitchw v word) s = .next
    { s.setVoice v { s.voice v with pb := word } with resp := some 0x00000000#32 } :=
  congrArg Host.Outcome.next (State.respond_zero _)

theorem exec_setenv (id : BitVec 8) : exec (.setenv v id) s = .next
    { s.setVoice v { s.voice v with esel := envSelect id } with resp := some 0x00000000#32 } :=
  congrArg Host.Outcome.next (State.respond_zero _)

theorem exec_seteratel (len : BitVec 7) : exec (.seteratel v len) s = .next
    { s.setVoice v { s.voice v with erate := Config.tables.len len } with resp := some 0x00000000#32 } :=
  congrArg Host.Outcome.next (State.respond_zero _)

theorem exec_seteratew (word : BitVec 16) : exec (.seteratew v word) s = .next
    { s.setVoice v { s.voice v with erate := word } with resp := some 0x00000000#32 } :=
  congrArg Host.Outcome.next (State.respond_zero _)

theorem exec_setmod (value : BitVec 7) : exec (.setmod v value) s = .next
    { s.setVoice v { s.voice v with md := centred value } with resp := some 0x00000000#32 } :=
  congrArg Host.Outcome.next (State.respond_zero _)

theorem exec_setfmod (value : BitVec 7) :
    exec (.setfmod value) s = .next { s with fmd := centred value, resp := some 0x00000000#32 } :=
  congrArg Host.Outcome.next (State.respond_zero _)

theorem exec_setcut (cutoff : BitVec 8) :
    exec (.setcut cutoff) s = .next { s with cutoff := cutoff, resp := some 0x00000000#32 } :=
  congrArg Host.Outcome.next (State.respond_zero _)

theorem exec_setres (resonance : BitVec 8) :
    exec (.setres resonance) s = .next { s with res := resonance, resp := some 0x00000000#32 } :=
  congrArg Host.Outcome.next (State.respond_zero _)

/-- `SETOCT` with an operand that has an offset stores it. -/
theorem exec_setoct_of_some {delta : BitVec 8} {x : Byte} (h : octaveOffset delta = some x) :
    exec (.setoct v delta) s = .next
      { s.setVoice v { s.voice v with octoff := x } with resp := some 0x00000000#32 } := by
  simp only [exec, execSetoct, h, State.respond_zero]

end

/-- Within −10 to +10 octaves there is an offset, and it is `12 * delta` with nothing lost. -/
theorem octaveOffset_of_in_range {delta : BitVec 8} (h : -10 ≤ delta.toInt ∧ delta.toInt ≤ 10) :
    ∃ x : Byte, octaveOffset delta = some x ∧ x.toInt = 12 * delta.toInt := by
  rcases octaveOffset_cases delta with ⟨-, hx⟩ | ⟨hillegal, -⟩
  · exact hx
  · exact absurd h (of_decide_eq_false hillegal)

/-! ### The obligations -/

/-- Settles O16: the encoding by evaluation, the effect by `exec_setwave`, the stored id by `waveSelect_eq`. -/
theorem setWaveSelectsIdOrSine : Obligations.SetWaveSelectsIdOrSine := by
  unfold Obligations.SetWaveSelectsIdOrSine
  refine ⟨rfl, rfl, fun w => rfl, fun s v id => ?_⟩
  rw [exec_setwave, waveSelect_eq]

/-- Settles O17: the encoding by evaluation, the effect by `exec_setpitchn`. -/
theorem setPitchNoteLoadsPitchBase : Obligations.SetPitchNoteLoadsPitchBase := by
  unfold Obligations.SetPitchNoteLoadsPitchBase
  exact ⟨rfl, rfl, fun w => rfl, exec_setpitchn⟩

/-- Settles O18: the encoding by evaluation, the effect by `exec_setpitchw`. -/
theorem setPitchWordStoresPitchBase : Obligations.SetPitchWordStoresPitchBase := by
  unfold Obligations.SetPitchWordStoresPitchBase
  exact ⟨rfl, rfl, fun w => rfl, exec_setpitchw⟩

/-- Settles O19: the encoding by evaluation, the effect by `exec_setenv`, the stored id by `envSelect_eq`. -/
theorem setEnvSelectsIdOrDefault : Obligations.SetEnvSelectsIdOrDefault := by
  unfold Obligations.SetEnvSelectsIdOrDefault
  refine ⟨rfl, rfl, fun w => rfl, fun s v id => ?_⟩
  rw [exec_setenv, envSelect_eq]

/-- Settles O20: both encodings by evaluation, the effects by `exec_seteratel` and `exec_seteratew`. -/
theorem envelopeRateCommandsStoreRate : Obligations.EnvelopeRateCommandsStoreRate := by
  unfold Obligations.EnvelopeRateCommandsStoreRate
  exact ⟨rfl, rfl, fun w => rfl, rfl, rfl, fun w => rfl, exec_seteratel, exec_seteratew⟩

/-- Settles O21: the byte both commands store is `centred value`, whose signed value `centred_toInt` gives. -/
theorem modulationDepthsAreCentred : Obligations.ModulationDepthsAreCentred := by
  unfold Obligations.ModulationDepthsAreCentred
  refine ⟨rfl, rfl, fun w => rfl, rfl, rfl, fun w => rfl, fun s value => ?_⟩
  exact ⟨centred value, centred_toInt value, fun v => exec_setmod s v value, exec_setfmod s value⟩

/-- Settles O22: both encodings by evaluation, the effects by `exec_setcut` and `exec_setres`. -/
theorem filterParametersStored : Obligations.FilterParametersStored := by
  unfold Obligations.FilterParametersStored
  exact ⟨rfl, rfl, fun w => rfl, rfl, rfl, fun w => rfl, fun s x => ⟨exec_setcut s x, exec_setres s x⟩⟩

/-- Settles O23: the offset of a legal operand by `octaveOffset_of_in_range`, the refusal of any other by
`exec_setoct_of_out_of_range`. -/
theorem setOctaveStoresTwelvePerOctave : Obligations.SetOctaveStoresTwelvePerOctave := by
  unfold Obligations.SetOctaveStoresTwelvePerOctave
  refine ⟨rfl, rfl, fun w => rfl, fun s v delta => ⟨fun hin => ?stored, fun hout => ?refused⟩⟩
  case stored =>
    obtain ⟨x, hoffset, hvalue⟩ := octaveOffset_of_in_range hin
    exact ⟨x, hvalue, exec_setoct_of_some s v hoffset⟩
  case refused => exact exec_setoct_of_out_of_range hout v s

end Sys2Proof.Machine

namespace Sys2Proof.Machine

/-! ### The answer that is one bit (30_encoding R62, 47 R134, R135) -/

/-- A bit is answered as the word 1 or 0. -/
theorem okWord_bitWord (b : Bool) : okWord (bitWord b) = if b then 0x00000001#32 else 0x00000000#32 := by
  cases b <;> decide

/-- `FREE(v)` by the range of the accumulator (42 R96, R98). -/
theorem State.free_eq (s : State) (v : Voice) : s.free v = decide (0x8000 ≤ (s.voice v).eacc.toNat) :=
  topBit_eq _

/-! ### The pitch word without a bend (45_pitch_modulation R114) -/

/-- A pitch base whose bend unit is 0 is its own pitch word, at every depth. -/
theorem pitchWord_of_bendUnit_eq_zero {pb e : Word} (h : bendUnit pb e = 0) (m : Byte) : pitchWord pb e m = pb := by
  have hsum : (pb.toNat : Int) + (bendUnit pb e : Int) * m.toInt = pb.toNat := by simp [h]
  rw [pitchWord, hsum, store16, BitVec.ofInt_natCast, BitVec.ofNat_toNat, BitVec.setWidth_eq]

/-- A trigger's envelope accumulator, 0, gives no bend. -/
theorem bendUnit_zero_envelope (pb : Word) : bendUnit pb 0 = 0 := by
  simp [bendUnit]

/-! ### The shifted note (47 R132) -/

/-- The table index that `TRIGN` takes is the one with the value of the sum. -/
theorem shiftedNote_eq_some {note n : BitVec 7} {o : Byte} (h : (n.toNat : Int) = note.toNat + o.toInt) :
    shiftedNote note o = some n := by
  rcases shiftedNote_cases note o with ⟨-, -, n', hn', hvalue⟩ | ⟨hout, -⟩
  · have hsame : n' = n := BitVec.eq_of_toNat_eq (by omega)
    rw [hn', hsame]
  · omega

/-! ### What each trigger, status, run-control and read command does (47_commands_voice_status R132 to R138) -/

section
variable (s : State) (v : Voice)

/-- `TRIGN` with a shifted note in the table writes the new pitch base, the restarted envelope and the word of both. -/
theorem exec_trign_of_some {note n : BitVec 7} (h : shiftedNote note (s.voice v).octoff = some n) :
    exec (.trign v note) s = .next
      { s.setVoice v { s.voice v with
          pb := Config.tables.note n
          eacc := 0x0000
          tw := pitchWord (Config.tables.note n) 0x0000 (s.voice v).md } with resp := some 0x00000000#32 } := by
  simp only [exec, execTrign, trignWith, h, triggerAtNote, State.respond_zero]

theorem exec_trig : exec (.trig v) s = .next
    { s.setVoice v { s.voice v with eacc := 0x0000, tw := (s.voice v).pb } with resp := some 0x00000000#32 } :=
  congrArg Host.Outcome.next (State.respond_zero _)

theorem exec_isfree : exec (.isfree v) s = .next { s with resp := some (okWord (bitWord (s.free v))) } := rfl

theorem exec_tick : exec .tick s = .next { s with hb := false, resp := some (okWord (bitWord s.hb)) } := rfl

theorem exec_suspend : exec .suspend s = .next { s with en := false, resp := some 0x00000000#32 } :=
  congrArg Host.Outcome.next (State.respond_zero _)

theorem exec_resume : exec .resume s = .next { s with en := true, resp := some 0x00000000#32 } :=
  congrArg Host.Outcome.next (State.respond_zero _)

/-- A pair that names a register reads an image (20_memory R42). -/
theorem exists_regRead_of_named {r : BitVec 8} (h : registerNamed v r = true) : ∃ x, regRead s v r = some x :=
  Option.isSome_iff_exists.1 ((regRead_isSome s v r).trans h)

end

/-- `TRIG` leaves the voice busy: its accumulator is 0 (42 R98). -/
theorem trig_free {s t : State} {v : Voice} (h : exec (.trig v) s = .next t) : t.free v = false := by
  cases h
  simp [State.free_eq]

/-- `RDREG` of a pair that reads an image answers it. -/
theorem exec_rdreg_of_eq_some {s : State} {v : Voice} {r : BitVec 8} {x : Word} (h : regRead s v r = some x) :
    exec (.rdreg v r) s = .next { s with resp := some (okWord x) } := by
  simp only [exec, execRdreg, h]
  rfl

/-! ### The obligations -/

/-- Settles O24: the shifted note by `shiftedNote_eq_some`, the writes by `exec_trign_of_some`, the word they leave by
`pitchWord_of_bendUnit_eq_zero`; the refusal by `exec_trign_of_out_of_range`. -/
theorem triggerAtNoteAppliesOctave : Obligations.TriggerAtNoteAppliesOctave := by
  unfold Obligations.TriggerAtNoteAppliesOctave
  refine ⟨rfl, rfl, fun w => rfl, fun s v note n => ⟨fun hn => ?triggered, fun hout => ?refused⟩⟩
  case triggered =>
    exact ⟨exec_trign_of_some s v (shiftedNote_eq_some hn),
      pitchWord_of_bendUnit_eq_zero (bendUnit_zero_envelope _) _⟩
  case refused => exact exec_trign_of_out_of_range hout

/-- Settles O25: the encoding by evaluation, the effect by `exec_trig`, the busy voice by `trig_free`. -/
theorem triggerRestartsEnvelope : Obligations.TriggerRestartsEnvelope := by
  unfold Obligations.TriggerRestartsEnvelope
  exact ⟨rfl, rfl, fun w => rfl, fun s v => ⟨_, exec_trig s v, trig_free (exec_trig s v), rfl⟩⟩

/-- Settles O26: the encoding by evaluation, the answer by `exec_isfree`, the bit by `State.free_eq`. -/
theorem isFreeAnswersTopBit : Obligations.IsFreeAnswersTopBit := by
  unfold Obligations.IsFreeAnswersTopBit
  refine ⟨rfl, rfl, fun w => rfl, fun s v => ?_⟩
  simp only [exec_isfree, okWord_bitWord, State.free_eq, decide_eq_true_eq]

/-- Settles O27: the encoding by evaluation, the effect by `exec_tick`, the answer by `okWord_bitWord`. -/
theorem tickReadsAndClearsHeartbeat : Obligations.TickReadsAndClearsHeartbeat := by
  unfold Obligations.TickReadsAndClearsHeartbeat
  refine ⟨rfl, rfl, fun w => rfl, fun s => ?_⟩
  rw [exec_tick, okWord_bitWord]

/-- Settles O28: the flag by `exec_suspend` and `exec_resume`; the next tick by `sample_suspended`, or by
`sampleEvent_next` and `sample_rr_scnt`. -/
theorem suspendAndResumeWriteRunFlag : Obligations.SuspendAndResumeWriteRunFlag := by
  unfold Obligations.SuspendAndResumeWriteRunFlag
  refine ⟨rfl, rfl, fun w => rfl, rfl, rfl, fun w => rfl, fun s => ⟨?suspended, ?resumed⟩⟩
  case suspended => exact ⟨_, exec_suspend s, rfl, _, sample_suspended rfl, State.silent_reg _⟩
  case resumed =>
    refine ⟨_, exec_resume s, rfl, fun hsel => ?_⟩
    obtain ⟨u, hu⟩ := sampleEvent_next Config.tables { s with en := true, resp := some 0x00000000#32 } hsel
    exact ⟨u, hu, (sample_rr_scnt rfl hu).1⟩

/-- Settles O29: a named pair reads an image, which `exec_rdreg_of_eq_some` answers; any other reads nothing, which
`exec_rdreg_of_eq_none` refuses. -/
theorem readRegisterAnswersImage : Obligations.ReadRegisterAnswersImage := by
  unfold Obligations.ReadRegisterAnswersImage
  refine ⟨rfl, rfl, fun w => rfl, fun s v r => ⟨fun hnamed => ?image, fun hunnamed => ?refused⟩⟩
  case image =>
    obtain ⟨x, hx⟩ := exists_regRead_of_named s v (decide_eq_true hnamed)
    exact ⟨x, hx, exec_rdreg_of_eq_some hx⟩
  case refused =>
    exact exec_rdreg_of_eq_none ((regRead_eq_none_iff s v r).2 (decide_eq_false hunnamed))

end Sys2Proof.Machine

namespace Sys2Proof.Machine

/-! ### Refused commands (60_exceptions R141) -/

/-- The operand checks of step 3 (30_encoding R65): the commands that refuse an operand, each with its cause. -/
inductive OperandRefused (s : State) : Instr → Cause → Prop where
  | octave {v : Voice} {delta : BitVec 8} (h : delta.toInt < -10 ∨ delta.toInt > 10) :
      OperandRefused s (.setoct v delta) .operandRange
  | register {v : Voice} {r : BitVec 8} (h : regRead s v r = none) : OperandRefused s (.rdreg v r) .operandRange
  | note {v : Voice} {note : BitVec 7}
      (h : (note.toNat : Int) + (s.voice v).octoff.toInt < 0 ∨ (note.toNat : Int) + (s.voice v).octoff.toInt > 127) :
      OperandRefused s (.trign v note) .noteRange

/-- What a decoded command answers: a word with `ERR = 0`, or the error answer where an operand is refused. -/
theorem exec_outcome {i : Instr} {s t : State} (h : exec i s = .next t) :
    (∃ x, t.resp = some (okWord x)) ∨ (∃ c, OperandRefused s i c ∧ t = s.raiseError c) := by
  cases i with
  | setoct v delta =>
    by_cases hout : delta.toInt < -10 ∨ delta.toInt > 10
    · rw [exec_setoct_of_out_of_range hout] at h
      cases h; exact .inr ⟨_, .octave hout, rfl⟩
    · obtain ⟨x, hx, -⟩ := octaveOffset_of_in_range (delta := delta) (by omega)
      simp only [exec, execSetoct, hx] at h
      cases h; exact .inl ⟨_, rfl⟩
  | trign v note =>
    rcases shiftedNote_cases note (s.voice v).octoff with ⟨-, -, n, hn, -⟩ | ⟨hout, -⟩
    · simp only [exec, execTrign, trignWith, hn] at h
      cases h; exact .inl ⟨_, rfl⟩
    · rw [exec_trign_of_out_of_range hout] at h
      cases h; exact .inr ⟨_, .note hout, rfl⟩
  | rdreg v r =>
    cases hr : regRead s v r with
    | some x =>
      rw [exec_rdreg_of_eq_some hr] at h
      cases h; exact .inl ⟨x, rfl⟩
    | none =>
      rw [exec_rdreg_of_eq_none hr] at h
      cases h; exact .inr ⟨_, .register hr, rfl⟩
  | _ => cases h; exact .inl ⟨_, rfl⟩

/-- Where an answer with `ERR = 1` comes from: the decoder's cause, or an operand check of the decoded command. -/
theorem command_refused {w a : CmdWord} {s t : State} (h : command w s = .next t) (ha : t.resp = some a)
    (hrefused : refusedAnswer a = true) :
    ∃ c, t = s.raiseError c ∧ a = errorWord c ∧
      (decode w = .error c ∨ ∃ i, decode w = .ok i ∧ OperandRefused s i c) := by
  have answer_of_raise {c : Cause} (ht : t = s.raiseError c) : a = errorWord c := by
    rw [ht, State.raiseError_resp, Option.some.injEq] at ha
    exact ha.symm
  rcases command_outcome h with ⟨c, hd, ht⟩ | ⟨i, hd, he⟩
  · exact ⟨c, ht, answer_of_raise ht, .inl hd⟩
  · rcases exec_outcome he with ⟨x, hx⟩ | ⟨c, hc, ht⟩
    · have hok : a = okWord x := Option.some.inj (ha.symm.trans hx)
      simp [hok] at hrefused
    · exact ⟨c, ht, answer_of_raise ht, .inr ⟨i, hd, hc⟩⟩

/-- The decoder refuses a word for one of two causes (30_encoding R65, steps 1 and 2). -/
theorem decode_eq_error {w : CmdWord} {c : Cause} (h : decode w = .error c) :
    (c = .illegalOpcode ∧ (opField w = 0x00#8 ∨ 0x13 ≤ (opField w).toNat)) ∨
    (c = .reservedField ∧ ∃ o : Opcode, opField w = o.number ∧ w &&& o.mask ≠ o.matchBits) := by
  rcases decode_cases w with ⟨hop, e⟩ | ⟨o, hop, hm, e⟩ | ⟨o, -, -, e⟩ <;> rw [e] at h <;> cases h
  · exact .inl ⟨rfl, ((opcodeOf_eq_none_iff _).1 hop).imp_left BitVec.eq_of_toNat_eq⟩
  · exact .inr ⟨rfl, o, hop, hm⟩

/-- Settles O11: the cause by `command_refused`; the decoder's two causes by `decode_eq_error`, the operand causes by
the cases of `OperandRefused`. -/
theorem refusedCommandAnswersItsCause : Obligations.RefusedCommandAnswersItsCause := by
  unfold Obligations.RefusedCommandAnswersItsCause
  intro w a s t h ha hrefused
  obtain ⟨c, ht, hanswer, hcause⟩ := command_refused h ha hrefused
  subst hanswer
  refine ⟨ht, ?_⟩
  rcases hcause with hd | ⟨i, hd, hoperand⟩
  · rcases decode_eq_error hd with ⟨rfl, hop⟩ | ⟨rfl, hmask⟩
    · exact .inl ⟨rfl, hop⟩
    · exact .inr (.inl ⟨rfl, hmask⟩)
  · cases hoperand with
    | octave hout => exact .inr (.inr (.inl ⟨rfl, .inl ⟨_, _, hd, hout⟩⟩))
    | register hnone => exact .inr (.inr (.inl ⟨rfl, .inr ⟨_, _, hd, hnone⟩⟩))
    | note hout => exact .inr (.inr (.inr ⟨rfl, _, _, hd, hout⟩))

end Sys2Proof.Machine

namespace Sys2Proof

/-! ### The four fields of a command word (30_encoding R60) -/

/-- `w[23:18]`, the reserved bits (R60). -/
def rsvField (w : CmdWord) : BitVec 6 := w.extractLsb' 18 6

/-- `w[17:16]` as bits, of which `voiceField` is the value (R60). -/
def voiceBitsField (w : CmdWord) : BitVec 2 := w.extractLsb' 16 2

/-- A word is its four fields side by side. -/
theorem append_fields (w : CmdWord) : opField w ++ rsvField w ++ voiceBitsField w ++ immField w = w := by
  have hop : opField w ++ rsvField w = w.extractLsb' 18 14 := BitVec.extractLsb'_append_extractLsb'_eq_extractLsb' rfl
  have hv : w.extractLsb' 18 14 ++ voiceBitsField w = w.extractLsb' 16 16 :=
    BitVec.extractLsb'_append_extractLsb'_eq_extractLsb' rfl
  have himm : w.extractLsb' 16 16 ++ immField w = w.extractLsb' 0 32 :=
    BitVec.extractLsb'_append_extractLsb'_eq_extractLsb' rfl
  rw [hop, hv, himm, BitVec.extractLsb'_eq_self]

/-- A word whose reserved bits are 0 is assembled from its other fields. -/
theorem assembleFields_of_rsvField {w : CmdWord} (h : rsvField w = 0) :
    assembleFields (opField w) (voiceBitsField w) (immField w) = w := by
  conv_rhs => rw [← append_fields w, h]
  rfl

@[simp] theorem rsvField_assembleFields (op : BitVec 8) (v : BitVec 2) (imm : BitVec 16) :
    rsvField (assembleFields op v imm) = 0 := by
  apply BitVec.eq_of_toNat_eq
  have hop := op.isLt; have hv := v.isLt; have himm := imm.isLt
  rw [rsvField, BitVec.extractLsb'_toNat, assembleFields_toNat, Nat.shiftRight_eq_div_pow]
  change _ = 0
  omega

@[simp] theorem voiceBitsField_assembleFields (op : BitVec 8) (v : BitVec 2) (imm : BitVec 16) :
    voiceBitsField (assembleFields op v imm) = v :=
  congrArg BitVec.ofFin (voiceField_assembleFields op v imm)

/-! ### The masks, field by field (30_encoding R61) -/

/-- The bits of the voice field that must be 0: none in a V format, both in an S format (R61). -/
def Format.voiceMask : Format → BitVec 2
  | .V16 | .V8 | .V7 | .V0 => 0
  | .S8 | .S7 | .S0 => 3

/-- How many bits a format's operand has (R61). -/
def Format.operandWidth : Format → Nat
  | .V16 => 16
  | .V8 | .S8 => 8
  | .V7 | .S7 => 7
  | .V0 | .S0 => 0

/-- The bits of the operand field that must be 0: those above the operand (R61). -/
def Format.immMask (f : Format) : BitVec 16 := BitVec.allOnes 16 <<< f.operandWidth

theorem Format.mask_eq (f : Format) : f.mask = BitVec.allOnes 8 ++ BitVec.allOnes 6 ++ f.voiceMask ++ f.immMask := by
  cases f <;> rfl

theorem Opcode.matchBits_eq (c : Opcode) : c.matchBits = c.number ++ 0#6 ++ 0#2 ++ 0#16 := by
  cases c <;> rfl

/-- Fields side by side are equal one by one. -/
theorem append_eq_append_iff {n m : Nat} {a a' : BitVec n} {b b' : BitVec m} :
    a ++ b = a' ++ b' ↔ a = a' ∧ b = b' := by
  constructor
  · intro h
    constructor
    · simpa only [BitVec.extractLsb'_append_eq_left] using congrArg (BitVec.extractLsb' m n) h
    · simpa only [BitVec.extractLsb'_append_eq_right] using congrArg (BitVec.extractLsb' 0 m) h
  · rintro ⟨rfl, rfl⟩
    rfl

/-- What the mask test says of each field of the word: the opcode is the command's, and the bits that R61 fixes are 0. -/
theorem mask_match_iff_fields (c : Opcode) (w : CmdWord) :
    w &&& c.mask = c.matchBits ↔
      opField w = c.number ∧ rsvField w = 0 ∧ voiceBitsField w &&& c.format.voiceMask = 0 ∧
        immField w &&& c.format.immMask = 0 := by
  have hand : w &&& c.mask = opField w ++ rsvField w ++ (voiceBitsField w &&& c.format.voiceMask) ++
      (immField w &&& c.format.immMask) := by
    conv_lhs => rw [← append_fields w, Opcode.mask, Format.mask_eq]
    rw [BitVec.and_append, BitVec.and_append, BitVec.and_append, BitVec.and_allOnes, BitVec.and_allOnes]
  rw [hand, Opcode.matchBits_eq, append_eq_append_iff, append_eq_append_iff, append_eq_append_iff, and_assoc, and_assoc]
  rfl

/-! ### Operands and the bits above them -/

/-- A `k`-bit operand in the 16-bit field leaves the bits above it 0. -/
theorem setWidth_and_high {k : Nat} (x : BitVec k) : x.setWidth 16 &&& BitVec.allOnes 16 <<< k = 0 := by
  apply BitVec.eq_of_getLsbD_eq
  intro i hi
  by_cases hk : i < k
  · simp [hk]
  · simp [BitVec.getLsbD_of_ge x i (by omega)]

/-- A field whose bits above the low `k` are 0 is its own low `k` bits. -/
theorem setWidth_setWidth_of_and_high {k : Nat} {x : BitVec 16} (h : x &&& BitVec.allOnes 16 <<< k = 0) :
    (x.setWidth k).setWidth 16 = x := by
  apply BitVec.eq_of_getLsbD_eq
  intro i hi
  by_cases hk : i < k
  · simp [hi, hk]
  · have hbit : (x &&& BitVec.allOnes 16 <<< k).getLsbD i = false := by rw [h]; exact BitVec.getLsbD_zero
    have hmask : (BitVec.allOnes 16 <<< k).getLsbD i = true := by
      have hik : i - k < 16 := by omega
      rw [BitVec.getLsbD_shiftLeft, BitVec.getLsbD_allOnes, decide_eq_true hi, decide_eq_false hk, decide_eq_true hik]
      rfl
    rw [BitVec.getLsbD_and, hmask, Bool.and_true] at hbit
    rw [hbit, BitVec.getLsbD_setWidth, BitVec.getLsbD_setWidth]
    simp [hk]

theorem imm8_eq (w : CmdWord) : imm8 w = (immField w).setWidth 8 := by
  apply BitVec.eq_of_toNat_eq
  simp only [imm8, immField, BitVec.extractLsb'_toNat, BitVec.toNat_setWidth]
  omega

theorem imm7_eq (w : CmdWord) : imm7 w = (immField w).setWidth 7 := by
  apply BitVec.eq_of_toNat_eq
  simp only [imm7, immField, BitVec.extractLsb'_toNat, BitVec.toNat_setWidth]
  omega

/-! ### Encoding (30_encoding R60, R68) -/

/-- A 16-bit operand has no bits above it. -/
theorem and_immMask_wide (x : BitVec 16) : x &&& Format.immMask .V16 = 0 := by
  rw [show Format.immMask .V16 = 0 from rfl]
  exact BitVec.and_zero

/-- The word of a command has the bits its format fixes at 0. -/
theorem encode_fixed_bits (i : Instr) :
    i.voiceBits &&& i.opcode.format.voiceMask = 0 ∧ i.immBits &&& i.opcode.format.immMask = 0 := by
  cases i with
  | setpitchw v x => exact ⟨BitVec.and_zero, and_immMask_wide x⟩
  | seteratew v x => exact ⟨BitVec.and_zero, and_immMask_wide x⟩
  | trig v => exact ⟨BitVec.and_zero, BitVec.zero_and⟩
  | isfree v => exact ⟨BitVec.and_zero, BitVec.zero_and⟩
  | tick => exact ⟨rfl, rfl⟩
  | suspend => exact ⟨rfl, rfl⟩
  | resume => exact ⟨rfl, rfl⟩
  | setfmod x => exact ⟨BitVec.zero_and, setWidth_and_high x⟩
  | setcut x => exact ⟨BitVec.zero_and, setWidth_and_high x⟩
  | setres x => exact ⟨BitVec.zero_and, setWidth_and_high x⟩
  | _ v x => exact ⟨BitVec.and_zero, setWidth_and_high x⟩

theorem encode_mask_match (i : Instr) : encode i &&& i.opcode.mask = i.opcode.matchBits := by
  obtain ⟨hv, himm⟩ := encode_fixed_bits i
  rw [mask_match_iff_fields, encode, opField_assembleFields, rsvField_assembleFields, voiceBitsField_assembleFields,
    immField_assembleFields]
  exact ⟨rfl, rfl, hv, himm⟩

/-- The operands are read back from the word a command is written as. -/
theorem operandsOf_encode (i : Instr) : operandsOf i.opcode (encode i) = i := by
  cases i with
  | setwave v id => exact Laws.OperandsRead.setwave v id
  | setpitchn v note => exact Laws.OperandsRead.setpitchn v note
  | setpitchw v word => exact Laws.OperandsRead.setpitchw v word
  | setenv v id => exact Laws.OperandsRead.setenv v id
  | seteratel v len => exact Laws.OperandsRead.seteratel v len
  | seteratew v word => exact Laws.OperandsRead.seteratew v word
  | setmod v value => exact Laws.OperandsRead.setmod v value
  | setfmod value => exact Laws.OperandsRead.setfmod value
  | setcut cutoff => exact Laws.OperandsRead.setcut cutoff
  | setres resonance => exact Laws.OperandsRead.setres resonance
  | setoct v delta => exact Laws.OperandsRead.setoct v delta
  | trign v note => exact Laws.OperandsRead.trign v note
  | trig v => exact Laws.OperandsRead.trig v
  | isfree v => exact Laws.OperandsRead.isfree v
  | tick => exact Laws.OperandsRead.tick
  | suspend => exact Laws.OperandsRead.suspend
  | resume => exact Laws.OperandsRead.resume
  | rdreg v r => exact Laws.OperandsRead.rdreg v r

theorem decode_encode (i : Instr) : decode (encode i) = .ok i := by
  rw [decode_of_mask_match (encode_mask_match i), operandsOf_encode]

theorem voiceBits_operandsOf {c : Opcode} {w : CmdWord} (h : voiceBitsField w &&& c.format.voiceMask = 0) :
    (operandsOf c w).voiceBits = voiceBitsField w := by
  have hshared : ∀ v : BitVec 2, v &&& 3#2 = 0 → 0 = v := by decide
  cases c with
  | setfmod | setcut | setres | tick | suspend | resume => exact hshared _ h
  | _ => rfl

theorem immBits_operandsOf {c : Opcode} {w : CmdWord} (h : immField w &&& c.format.immMask = 0) :
    (operandsOf c w).immBits = immField w := by
  have hlow : ((immField w).setWidth c.format.operandWidth).setWidth 16 = immField w :=
    setWidth_setWidth_of_and_high h
  cases c with
  | setpitchw | seteratew => rfl
  | trig | isfree | tick | suspend | resume =>
    have hnone : (immField w).setWidth 0 = 0#0 := BitVec.of_length_zero
    exact (congrArg (BitVec.setWidth 16) hnone.symm).trans hlow
  | setwave | setenv | setcut | setres | setoct | rdreg => exact (congrArg _ (imm8_eq w)).trans hlow
  | setpitchn | seteratel | setmod | setfmod | trign => exact (congrArg _ (imm7_eq w)).trans hlow

theorem encode_operandsOf {c : Opcode} {w : CmdWord} (h : w &&& c.mask = c.matchBits) : encode (operandsOf c w) = w := by
  obtain ⟨hop, hrsv, hv, himm⟩ := (mask_match_iff_fields c w).1 h
  rw [encode, opcode_operandsOf, voiceBits_operandsOf hv, immBits_operandsOf himm, ← hop,
    assembleFields_of_rsvField hrsv]

theorem encode_of_decode {w : CmdWord} {i : Instr} (h : decode w = .ok i) : encode i = w := by
  obtain ⟨hmask, hoperands⟩ := decode_eq_ok h
  rw [hoperands]
  exact encode_operandsOf hmask

/-! ### The operands as numbers (30_encoding R60, R64) -/

theorem voiceField_val (w : CmdWord) : (voiceField w).val = w.toNat / 2 ^ 16 % 4 := by
  have h : (voiceField w).val = (w.extractLsb' 16 2).toNat := rfl
  rw [h, BitVec.extractLsb'_toNat, Nat.shiftRight_eq_div_pow]

theorem immField_toNat (w : CmdWord) : (immField w).toNat = w.toNat % 2 ^ 16 := BitVec.extractLsb'_toNat ..

theorem imm8_toNat (w : CmdWord) : (imm8 w).toNat = w.toNat % 2 ^ 8 := BitVec.extractLsb'_toNat ..

theorem imm7_toNat (w : CmdWord) : (imm7 w).toNat = w.toNat % 2 ^ 7 := BitVec.extractLsb'_toNat ..

/-! ### The words of the commands without operands (30_encoding R63) -/

theorem encode_tick : encode .tick = 0x0F000000#32 := rfl

theorem encode_suspend : encode .suspend = 0x10000000#32 := rfl

theorem encode_resume : encode .resume = 0x11000000#32 := rfl

/-! ### The obligations -/

/-- Settles O12: the word meets its command's mask (`encode_mask_match`) and its operands are read back. -/
theorem decodeInvertsEncode : Obligations.DecodeInvertsEncode := by
  unfold Obligations.DecodeInvertsEncode
  exact decode_encode

/-- Settles O13: what the mask fixes and what the operands keep are all the bits of the word. -/
theorem encodeInvertsDecode : Obligations.EncodeInvertsDecode := by
  unfold Obligations.EncodeInvertsDecode
  exact fun w i => encode_of_decode

/-- Settles O9: the operands are the word's fields by `decode_eq_ok`, and a command without operands is its own word. -/
theorem operandsTakenFromFields : Obligations.OperandsTakenFromFields := by
  unfold Obligations.OperandsTakenFromFields
  intro w i h
  have hword : encode i = w := encode_of_decode h
  obtain ⟨-, hi⟩ := decode_eq_ok h
  generalize i.opcode = c at hi
  subst hi
  cases c with
  | tick => exact hword.symm.trans encode_tick
  | suspend => exact hword.symm.trans encode_suspend
  | resume => exact hword.symm.trans encode_resume
  | trig | isfree => exact voiceField_val w
  | setpitchw | seteratew => exact ⟨voiceField_val w, immField_toNat w⟩
  | setwave | setenv | setoct | rdreg => exact ⟨voiceField_val w, imm8_toNat w⟩
  | setpitchn | seteratel | setmod | trign => exact ⟨voiceField_val w, imm7_toNat w⟩
  | setcut | setres => exact imm8_toNat w
  | setfmod => exact imm7_toNat w

/-- Settles O14: the printed words, each by evaluation. -/
theorem writtenWordsDecode : Obligations.WrittenWordsDecode := by
  unfold Obligations.WrittenWordsDecode
  exact ⟨rfl, rfl, rfl, rfl, rfl, rfl, rfl, rfl, rfl, rfl, rfl, rfl⟩

end Sys2Proof

namespace Sys2Proof.Machine

/-! ### What a command does, said once (46_commands_parameters, 47_commands_voice_status) -/

/-- What a command makes of the registers of the voice it addresses; nothing where it addresses none or is refused. -/
def voiceEffect : Instr → VoiceRegs → VoiceRegs
  | .setwave _ id, g => { g with wsel := waveSelect id }
  | .setpitchn _ note, g => { g with pb := Config.tables.note note }
  | .setpitchw _ word, g => { g with pb := word }
  | .setenv _ id, g => { g with esel := envSelect id }
  | .seteratel _ len, g => { g with erate := Config.tables.len len }
  | .seteratew _ word, g => { g with erate := word }
  | .setmod _ value, g => { g with md := centred value }
  | .setoct _ delta, g =>
    match octaveOffset delta with
    | some x => { g with octoff := x }
    | none => g
  | .trign _ note, g =>
    match shiftedNote note g.octoff with
    | some n => { g with pb := Config.tables.note n, eacc := 0, tw := pitchWord (Config.tables.note n) 0 g.md }
    | none => g
  | .trig _, g => { g with eacc := 0, tw := g.pb }
  | _, g => g

/-- What a command does to the shared registers. -/
def sharedEffect : Instr → State → State
  | .setfmod value, s => { s with fmd := centred value }
  | .setcut cutoff, s => { s with cutoff := cutoff }
  | .setres resonance, s => { s with res := resonance }
  | .tick, s => { s with hb := false }
  | .suspend, s => { s with en := false }
  | .resume, s => { s with en := true }
  | _, s => s

/-- What a command answers. -/
def responseOf : Instr → State → CmdWord
  | .setoct _ delta, _ => if octaveOffset delta = none then errorWord .operandRange else okWord 0
  | .trign v note, s => if shiftedNote note (s.voice v).octoff = none then errorWord .noteRange else okWord 0
  | .isfree v, s => okWord (bitWord (s.free v))
  | .tick, s => okWord (bitWord s.hb)
  | .rdreg v r, s =>
    match regRead s v r with
    | some x => okWord x
    | none => errorWord .operandRange
  | _, _ => okWord 0

/-- The voice of a command's word; 0 where it addresses none. -/
abbrev addressed (i : Instr) : Voice := i.voiceBits.toFin

/-- The registers after a command. -/
def effect (i : Instr) (s : State) : State :=
  (sharedEffect i s).setVoice (addressed i) (voiceEffect i (s.voice (addressed i)))

/-- A command that leaves its voice alone has only its effect on the shared registers. -/
theorem effect_of_voice_kept {i : Instr} {s : State}
    (h : voiceEffect i (s.voice (addressed i)) = s.voice (addressed i)) : effect i s = sharedEffect i s := by
  have hvoice : s.voice (addressed i) = (sharedEffect i s).voice (addressed i) := by cases i <;> rfl
  rw [effect, h, hvoice, State.setVoice_voice]

/-- A command with no effect on the shared registers has only its effect on its voice. -/
theorem effect_of_shared_kept {i : Instr} {s : State} {g : VoiceRegs} (hshared : sharedEffect i s = s)
    (hg : voiceEffect i (s.voice (addressed i)) = g) : effect i s = s.setVoice (addressed i) g := by
  rw [effect, hshared, hg]

theorem voiceEffect_setoct_of_some {delta : BitVec 8} {x : Byte} (h : octaveOffset delta = some x) (v : Voice)
    (g : VoiceRegs) : voiceEffect (.setoct v delta) g = { g with octoff := x } := by
  simp only [voiceEffect, h]

theorem voiceEffect_setoct_of_none {delta : BitVec 8} (h : octaveOffset delta = none) (v : Voice) (g : VoiceRegs) :
    voiceEffect (.setoct v delta) g = g := by
  simp only [voiceEffect, h]

theorem voiceEffect_trign_of_some {note n : BitVec 7} {g : VoiceRegs} (h : shiftedNote note g.octoff = some n)
    (v : Voice) : voiceEffect (.trign v note) g =
      { g with pb := Config.tables.note n, eacc := 0, tw := pitchWord (Config.tables.note n) 0 g.md } := by
  simp only [voiceEffect, h]

theorem voiceEffect_trign_of_none {note : BitVec 7} {g : VoiceRegs} (h : shiftedNote note g.octoff = none) (v : Voice) :
    voiceEffect (.trign v note) g = g := by
  simp only [voiceEffect, h]

/-- `SETOCT` stores the offset and answers 0, or is refused. -/
theorem exec_setoct_eq (v : Voice) (delta : BitVec 8) (s : State) :
    exec (.setoct v delta) s =
      .next { effect (.setoct v delta) s with resp := some (responseOf (.setoct v delta) s) } := by
  cases hx : octaveOffset delta with
  | some x =>
    rw [exec_setoct_of_some s v hx, effect_of_shared_kept rfl (voiceEffect_setoct_of_some hx v _)]
    simp only [responseOf, hx, reduceCtorEq, if_false, okWord_zero]
    rfl
  | none =>
    rw [effect_of_voice_kept (voiceEffect_setoct_of_none hx v _)]
    simp only [exec, execSetoct, hx, responseOf, if_true]
    rfl

/-- `TRIGN` triggers at the shifted note and answers 0, or is refused. -/
theorem exec_trign_eq (v : Voice) (note : BitVec 7) (s : State) :
    exec (.trign v note) s = .next { effect (.trign v note) s with resp := some (responseOf (.trign v note) s) } := by
  cases hn : shiftedNote note (s.voice v).octoff with
  | some n =>
    rw [exec_trign_of_some s v hn, effect_of_shared_kept rfl (voiceEffect_trign_of_some hn v)]
    simp only [responseOf, hn, reduceCtorEq, if_false, okWord_zero]
    rfl
  | none =>
    rw [effect_of_voice_kept (voiceEffect_trign_of_none hn v)]
    simp only [exec, execTrign, trignWith, hn, responseOf, if_true]
    rfl

/-- `RDREG` answers the image or is refused, and leaves every register alone. -/
theorem exec_rdreg_eq (v : Voice) (r : BitVec 8) (s : State) :
    exec (.rdreg v r) s = .next { effect (.rdreg v r) s with resp := some (responseOf (.rdreg v r) s) } := by
  rw [effect_of_voice_kept rfl]
  cases hr : regRead s v r with
  | some x => simp [exec_rdreg_of_eq_some hr, sharedEffect, responseOf, hr]
  | none => simp [exec, execRdreg, sharedEffect, responseOf, hr, State.raiseError]

/-- What every command does, refused or not: the effect and the answer. -/
theorem exec_eq (i : Instr) (s : State) : exec i s = .next { effect i s with resp := some (responseOf i s) } := by
  cases i with
  | setoct v delta => exact exec_setoct_eq v delta s
  | trign v note => exact exec_trign_eq v note s
  | rdreg v r => exact exec_rdreg_eq v r s
  | setfmod | setcut | setres | isfree | tick | suspend | resume =>
    rw [effect_of_voice_kept rfl]
    rfl
  | _ => rfl

/-- Where a performed command ends. -/
theorem exec_next_eq {i : Instr} {s t : State} (h : exec i s = .next t) :
    t = { effect i s with resp := some (responseOf i s) } := by
  rw [exec_eq] at h
  cases h
  rfl

theorem effect_voice (i : Instr) (s : State) (w : Voice) :
    (effect i s).voice w = if w = addressed i then voiceEffect i (s.voice w) else s.voice w := by
  have hshared : (sharedEffect i s).voice w = s.voice w := by cases i <;> rfl
  rw [effect, State.voice_setVoice, hshared]
  by_cases hw : w = addressed i
  · rw [if_pos hw, if_pos hw, hw]
  · rw [if_neg hw, if_neg hw]

/-- Voice by voice, what a performed command leaves. -/
theorem exec_voice {i : Instr} {s t : State} (h : exec i s = .next t) (w : Voice) :
    t.voice w = if w = addressed i then voiceEffect i (s.voice w) else s.voice w := by
  rw [exec_next_eq h, ← effect_voice]
  rfl

end Sys2Proof.Machine

namespace Sys2Proof.Machine

/-! ### What a command keeps -/

/-- A command keeps each register of its voice that its row of R52 does not list. -/
theorem voiceEffect_frame (i : Instr) (g : VoiceRegs) :
    (voiceEffect i g).phase = g.phase ∧ (voiceEffect i g).amp = g.amp ∧
    (.tw (addressed i) ∉ mayWrite i → (voiceEffect i g).tw = g.tw) ∧
    (.pb (addressed i) ∉ mayWrite i → (voiceEffect i g).pb = g.pb) ∧
    (.eacc (addressed i) ∉ mayWrite i → (voiceEffect i g).eacc = g.eacc) ∧
    (.erate (addressed i) ∉ mayWrite i → (voiceEffect i g).erate = g.erate) ∧
    (.md (addressed i) ∉ mayWrite i → (voiceEffect i g).md = g.md) ∧
    (.wsel (addressed i) ∉ mayWrite i → (voiceEffect i g).wsel = g.wsel) ∧
    (.esel (addressed i) ∉ mayWrite i → (voiceEffect i g).esel = g.esel) ∧
    (.octoff (addressed i) ∉ mayWrite i → (voiceEffect i g).octoff = g.octoff) := by
  cases i with
  | setoct v delta =>
    cases hx : octaveOffset delta with
    | some x => simp [voiceEffect_setoct_of_some hx, mayWrite, addressed, Instr.voiceBits]
    | none => simp [voiceEffect_setoct_of_none hx]
  | trign v note =>
    cases hn : shiftedNote note g.octoff with
    | some n => simp [voiceEffect_trign_of_some hn, mayWrite, addressed, Instr.voiceBits]
    | none => simp [voiceEffect_trign_of_none hn]
  | _ => simp [voiceEffect, mayWrite, addressed, Instr.voiceBits]

/-- A command keeps each shared register that its row of R52 does not list, and the model's own inbox and counter. -/
theorem sharedEffect_frame (i : Instr) (s : State) :
    (∃ fmd cutoff res hb en, sharedEffect i s = { s with fmd := fmd, cutoff := cutoff, res := res, hb := hb, en := en }) ∧
    (.fmd ∉ mayWrite i → (sharedEffect i s).fmd = s.fmd) ∧
    (.cutoff ∉ mayWrite i → (sharedEffect i s).cutoff = s.cutoff) ∧
    (.res ∉ mayWrite i → (sharedEffect i s).res = s.res) ∧
    (.hb ∉ mayWrite i → (sharedEffect i s).hb = s.hb) ∧
    (.en ∉ mayWrite i → (sharedEffect i s).en = s.en) := by
  refine ⟨⟨(sharedEffect i s).fmd, (sharedEffect i s).cutoff, (sharedEffect i s).res, (sharedEffect i s).hb,
    (sharedEffect i s).en, ?_⟩, ?_⟩
  · cases i <;> rfl
  · cases i <;> simp [sharedEffect, mayWrite]

/-- A command writes only the registers of its row of R52. -/
theorem exec_reg_of_not_mem {i : Instr} {s t : State} (h : exec i s = .next t) {r : Reg} (hr : r ∉ mayWrite i) :
    t.reg r = s.reg r := by
  obtain ⟨⟨fmd, cutoff, res, hb, en, heq⟩, hfmd, hcutoff, hres, hhb, hen⟩ := sharedEffect_frame i s
  have hvoice := exec_voice h
  cases r with
  | f0 | f1 | f2 | rr | scnt | yout | dac => rw [exec_next_eq h, effect, heq]; rfl
  | cutoff => rw [exec_next_eq h]; exact congrArg BitVec.toNat (hcutoff hr)
  | res => rw [exec_next_eq h]; exact congrArg BitVec.toNat (hres hr)
  | fmd => rw [exec_next_eq h]; exact congrArg BitVec.toNat (hfmd hr)
  | hb => rw [exec_next_eq h]; exact congrArg Bool.toNat (hhb hr)
  | en => rw [exec_next_eq h]; exact congrArg Bool.toNat (hen hr)
  | _ w =>
    by_cases hw : w = addressed i
    · obtain ⟨hphase, hamp, htw, hpb, heacc, herate, hmd, hwsel, hesel, hoctoff⟩ := voiceEffect_frame i (s.voice w)
      subst hw
      simp [State.reg, *]
    · simp [State.reg, hvoice, hw]

/-- A command touches neither the events still to come nor the count of arrivals. -/
theorem exec_inbox_arrivals {i : Instr} {s t : State} (h : exec i s = .next t) :
    t.inbox = s.inbox ∧ t.arrivals = s.arrivals := by
  obtain ⟨⟨fmd, cutoff, res, hb, en, heq⟩, -⟩ := sharedEffect_frame i s
  rw [exec_next_eq h, effect, heq]
  exact ⟨rfl, rfl⟩

/-- No command lists a phase accumulator, the filter state, the counter, the slot index or an output register. -/
theorem not_mem_mayWrite (i : Instr) :
    (∀ v, .phase v ∉ mayWrite i) ∧ .f0 ∉ mayWrite i ∧ .f1 ∉ mayWrite i ∧ .f2 ∉ mayWrite i ∧ .scnt ∉ mayWrite i ∧
    .rr ∉ mayWrite i ∧ .yout ∉ mayWrite i ∧ .dac ∉ mayWrite i := by
  cases i <;> simp [mayWrite]

/-! ### The reset event (70_reset_and_hazards R160) -/

theorem resetRegisters_reg (s : State) (r : Reg) : s.resetRegisters.reg r = State.reset.reg r := by
  cases r <;> rfl

/-- Settles O2: the reset event by `resetRegisters_reg`; the named registers are in no row of `mayWrite`. -/
theorem resetEventRestoresEveryRegister : Obligations.ResetEventRestoresEveryRegister := by
  unfold Obligations.ResetEventRestoresEveryRegister
  refine ⟨fun s => ⟨s.resetRegisters, rfl, resetRegisters_reg s, rfl⟩, fun i s t h => ?_⟩
  obtain ⟨hphase, hf0, hf1, hf2, hscnt, hrr, -⟩ := not_mem_mayWrite i
  have hkept {r : Reg} (hr : r ∉ mayWrite i) : t.reg r = s.reg r := exec_reg_of_not_mem h hr
  exact ⟨fun v => hkept (hphase v), hkept hf0, hkept hf1, hkept hf2, hkept hscnt, hkept hrr⟩

/-- Settles O31: the registers by `exec_reg_of_not_mem`, `HB` after `TICK` by `exec_tick_hb`. -/
theorem commandsWriteOnlyListedRegisters : Obligations.CommandsWriteOnlyListedRegisters := by
  unfold Obligations.CommandsWriteOnlyListedRegisters
  intro i s t h
  refine ⟨fun r hr => exec_reg_of_not_mem h hr, ?_, exec_inbox_arrivals h⟩
  rintro rfl
  exact exec_tick_hb h

/-! ### What a sample event keeps (20_memory R52) -/

/-- A slot writes no parameter of its voice (42 R96). -/
theorem envSlot_parameters {T : Tables} {g g' : VoiceRegs} (h : envSlot T g = some g') :
    g'.pb = g.pb ∧ g'.erate = g.erate ∧ g'.md = g.md ∧ g'.wsel = g.wsel ∧ g'.esel = g.esel ∧ g'.octoff = g.octoff := by
  obtain ⟨hframe, -, -⟩ := envSlot_effect h
  rw [hframe]
  exact ⟨rfl, rfl, rfl, rfl, rfl, rfl⟩

/-- A sample event, performed or not, writes no parameter of a voice. -/
theorem sample_parameters {s t : State} (h : perform .sample s = .next t) (v : Voice) :
    (t.voice v).pb = (s.voice v).pb ∧ (t.voice v).erate = (s.voice v).erate ∧ (t.voice v).md = (s.voice v).md ∧
    (t.voice v).wsel = (s.voice v).wsel ∧ (t.voice v).esel = (s.voice v).esel ∧
    (t.voice v).octoff = (s.voice v).octoff := by
  rcases sample_outcome h with ⟨-, rfl⟩ | ⟨-, g, smp, hg, -, -, hvoice⟩
  · exact ⟨rfl, rfl, rfl, rfl, rfl, rfl⟩
  · rw [hvoice v]
    by_cases hv : v = s.rr
    · subst hv
      rw [if_pos rfl]
      obtain ⟨hpb, herate, hmd, hwsel, hesel, hoctoff⟩ := envSlot_parameters hg
      exact ⟨hpb, herate, hmd, hwsel, hesel, hoctoff⟩
    · rw [if_neg hv]
      exact ⟨rfl, rfl, rfl, rfl, rfl, rfl⟩

/-- A sample event, performed or not, writes no shared parameter, and neither the events still to come nor the count of
arrivals. -/
theorem sample_shared {s t : State} (h : perform .sample s = .next t) :
    t.cutoff = s.cutoff ∧ t.res = s.res ∧ t.fmd = s.fmd ∧ t.en = s.en ∧ t.inbox = s.inbox ∧ t.arrivals = s.arrivals := by
  rcases sample_outcome h with ⟨-, rfl⟩ | ⟨-, g, smp, -, -, rfl, -⟩
  · exact ⟨rfl, rfl, rfl, rfl, rfl, rfl⟩
  · simp [finishSample]

/-- In bypass a performed step keeps the filter state (44_filter_output R106). -/
theorem sample_filter_bypassed {s t : State} (hcut : s.cutoff = 255) (h : perform .sample s = .next t) :
    t.f0 = s.f0 ∧ t.f1 = s.f1 ∧ t.f2 = s.f2 := by
  rcases sample_outcome h with ⟨-, rfl⟩ | ⟨-, g, smp, -, -, rfl, -⟩
  · exact ⟨rfl, rfl, rfl⟩
  · exact (finishSample_bypassed (s := s.silent.setVoice s.rr g) hcut s.rr smp).2

/-- A performed step writes only the registers of the `SAMPLE` rows of R52. -/
theorem sample_reg_of_not_mem {s t : State} (hen : s.en = true) (h : perform .sample s = .next t) {r : Reg}
    (hr : r ∉ sampleMayWrite s) : t.reg r = s.reg r := by
  obtain ⟨hcutoff, hres, hfmd, henKept, -⟩ := sample_shared h
  simp only [sampleMayWrite, hen, if_true, List.append_eq, List.mem_append, not_or] at hr
  obtain ⟨hlisted, hfilter⟩ := hr
  have hbypassed : r ∈ [Reg.f0, .f1, .f2] → s.cutoff = 255 := fun hmem => by
    by_contra hne
    rw [if_neg hne] at hfilter
    exact hfilter hmem
  cases r with
  | phase v => rcases voice_cases v with rfl | rfl | rfl | rfl <;> simp at hlisted
  | rr | hb | scnt | yout | dac => simp at hlisted
  | f0 => exact congrArg BitVec.toNat (sample_filter_bypassed (hbypassed (by simp)) h).1
  | f1 => exact congrArg BitVec.toNat (sample_filter_bypassed (hbypassed (by simp)) h).2.1
  | f2 => exact congrArg BitVec.toNat (sample_filter_bypassed (hbypassed (by simp)) h).2.2
  | cutoff => exact congrArg BitVec.toNat hcutoff
  | res => exact congrArg BitVec.toNat hres
  | fmd => exact congrArg BitVec.toNat hfmd
  | en => exact congrArg Bool.toNat henKept
  | eacc v => exact congrArg BitVec.toNat (sample_envelope_of_ne hen h (by simpa using hlisted)).1
  | amp v => exact congrArg BitVec.toNat (sample_envelope_of_ne hen h (by simpa using hlisted)).2
  | tw v => exact congrArg BitVec.toNat (sample_tw_of_ne hen h (by simpa using hlisted))
  | _ v =>
    obtain ⟨hpb, herate, hmd, hwsel, hesel, hoctoff⟩ := sample_parameters h v
    simp [State.reg, *]

/-- Settles O32: a suspended event changes no register; a performed one only those that `sample_reg_of_not_mem` leaves
out. -/
theorem sampleWritesOnlyListedRegisters : Obligations.SampleWritesOnlyListedRegisters := by
  unfold Obligations.SampleWritesOnlyListedRegisters
  intro s t h
  obtain ⟨-, -, -, -, hinbox, harrivals⟩ := sample_shared h
  refine ⟨fun r hr => ?registers, fun hhb => by rw [sample_hb h, hhb, Bool.true_or], hinbox, harrivals⟩
  case registers =>
    cases hen : s.en with
    | true => exact sample_reg_of_not_mem hen h hr
    | false =>
      rw [sample_suspended hen] at h
      cases h
      exact State.silent_reg s r

end Sys2Proof.Machine

namespace Sys2Proof.Machine

/-! ### What an octave operand stores (46 R130) -/

theorem octaveOffset_legal {delta : BitVec 8} {x : Byte} (h : octaveOffset delta = some x) : octoffLegal x := by
  rcases octaveOffset_cases delta with ⟨hlegal, y, hy, hvalue⟩ | ⟨-, hnone⟩
  · rw [h, Option.some.injEq] at hy
    subst hy
    have hrange := of_decide_eq_true hlegal
    simp only [octoffLegal]
    omega
  · rw [h] at hnone
    cases hnone

/-! ### The invariant through a command (10_state R35) -/

/-- The selectors of one voice name tables that exist (R18, R19). -/
abbrev VoiceRegs.selectorsLegal (g : VoiceRegs) : Prop := g.wsel.toNat ≤ 5 ∧ g.esel.toNat ≤ 4

/-- A command leaves what is legal in its voice legal. -/
theorem voiceEffect_legal (i : Instr) (g : VoiceRegs) :
    (g.selectorsLegal → (voiceEffect i g).selectorsLegal) ∧ (depthLegal g.md → depthLegal (voiceEffect i g).md) ∧
    (octoffLegal g.octoff → octoffLegal (voiceEffect i g).octoff) := by
  cases i with
  | setwave v id => exact ⟨fun ⟨_, hesel⟩ => ⟨waveSelect_legal id, hesel⟩, fun h => h, fun h => h⟩
  | setenv v id => exact ⟨fun ⟨hwsel, _⟩ => ⟨hwsel, envSelect_legal id⟩, fun h => h, fun h => h⟩
  | setmod v value => exact ⟨fun h => h, fun _ => centred_legal value, fun h => h⟩
  | setoct v delta =>
    cases hx : octaveOffset delta with
    | some x =>
      rw [voiceEffect_setoct_of_some hx]
      exact ⟨fun h => h, fun h => h, fun _ => octaveOffset_legal hx⟩
    | none =>
      rw [voiceEffect_setoct_of_none hx]
      exact ⟨fun h => h, fun h => h, fun h => h⟩
  | trign v note =>
    cases hn : shiftedNote note g.octoff with
    | some n =>
      rw [voiceEffect_trign_of_some hn]
      exact ⟨fun h => h, fun h => h, fun h => h⟩
    | none =>
      rw [voiceEffect_trign_of_none hn]
      exact ⟨fun h => h, fun h => h, fun h => h⟩
  | _ => exact ⟨fun h => h, fun h => h, fun h => h⟩

/-- What a command keeps in every voice it may address, it keeps in all voices. -/
theorem exec_voice_keeps {P : VoiceRegs → Prop} {i : Instr} {s t : State} (h : exec i s = .next t)
    (hP : ∀ g, P g → P (voiceEffect i g)) (hs : ∀ v, P (s.voice v)) (v : Voice) : P (t.voice v) := by
  rw [exec_voice h v]
  split
  · exact hP _ (hs v)
  · exact hs v

theorem exec_selectorsLegal {i : Instr} {s t : State} (h : exec i s = .next t) (hs : s.selectorsLegal) :
    t.selectorsLegal :=
  exec_voice_keeps (P := VoiceRegs.selectorsLegal) h (fun g => (voiceEffect_legal i g).1) hs

/-- `SETFMOD` stores a legal depth, and no other command writes it. -/
theorem sharedEffect_fmd_legal (i : Instr) {s : State} (h : depthLegal s.fmd) : depthLegal (sharedEffect i s).fmd := by
  cases i with
  | setfmod value => exact centred_legal value
  | _ => exact h

/-- A command writes neither the filter state, the outputs, the slot index nor the counter. -/
theorem exec_datapath {i : Instr} {s t : State} (h : exec i s = .next t) :
    t.f0 = s.f0 ∧ t.f1 = s.f1 ∧ t.f2 = s.f2 ∧ t.yout = s.yout ∧ t.dac = s.dac ∧ t.rr = s.rr ∧ t.scnt = s.scnt := by
  obtain ⟨⟨fmd, cutoff, res, hb, en, heq⟩, -⟩ := sharedEffect_frame i s
  rw [exec_next_eq h, effect, heq]
  exact ⟨rfl, rfl, rfl, rfl, rfl, rfl, rfl⟩

theorem exec_inv {i : Instr} {s t : State} (h : exec i s = .next t) (hs : s.Inv) : t.Inv := by
  obtain ⟨hf0, hf1, hf2, hyout, hdac, hrr, hscnt⟩ := exec_datapath h
  exact {
    selectors := exec_selectorsLegal h hs.selectors
    depths := exec_voice_keeps (P := fun g => depthLegal g.md) h (fun g => (voiceEffect_legal i g).2.1) hs.depths
    filterDepth := by rw [exec_next_eq h]; exact sharedEffect_fmd_legal i hs.filterDepth
    octaves := exec_voice_keeps (P := fun g => octoffLegal g.octoff) h (fun g => (voiceEffect_legal i g).2.2) hs.octaves
    filter0 := hf0 ▸ hs.filter0
    filter1 := hf1 ▸ hs.filter1
    filter2 := hf2 ▸ hs.filter2
    dacFollowsYout := by rw [hdac, hyout, hs.dacFollowsYout]
    slotFollowsCount := by rw [hrr, hscnt, hs.slotFollowsCount] }

/-! ### The invariant through a sample event (44_filter_output R110) -/

/-- The new pole mixes its old value and the next one, at 255 parts of 256 in all, so it stays within 16934. -/
theorem poleNext_range {own next : Word} (hown : filterBound own) (hnext : filterBound next) (c : Byte) :
    -16934 ≤ (poleNext own next c).toInt ∧ (poleNext own next c).toInt ≤ 16934 := by
  have hc : (c.toNat : Int) ≤ 255 := by have := c.isLt; omega
  have hc0 : (0 : Int) ≤ c.toNat := Int.natCast_nonneg _
  obtain ⟨hownLo, hownHi⟩ := hown
  obtain ⟨hnextLo, hnextHi⟩ := hnext
  have hsumLo : -17000 * 255 ≤ own.toInt * (255 - (c.toNat : Int)) + next.toInt * c.toNat := by nlinarith
  have hsumHi : own.toInt * (255 - (c.toNat : Int)) + next.toInt * c.toNat ≤ 17000 * 255 := by nlinarith
  obtain ⟨hfloor, hceil⟩ := asr_spec (own.toInt * (255 - (c.toNat : Int)) + next.toInt * c.toNat) 8
  have hfits : -16934 ≤ asr (own.toInt * (255 - (c.toNat : Int)) + next.toInt * c.toNat) 8 ∧
      asr (own.toInt * (255 - (c.toNat : Int)) + next.toInt * c.toNat) 8 ≤ 16934 := by omega
  rw [poleNext, store16_toInt (by omega) (by omega)]
  exact hfits

/-- The feedback takes at most 255 parts of 256 of the NEW pole, so the input stage stays within 17000. -/
theorem inputNext_range {mixed : Int} {f0 : Word} (hmixed : -128 ≤ mixed ∧ mixed ≤ 126)
    (hf0 : -16934 ≤ f0.toInt ∧ f0.toInt ≤ 16934) (r : Byte) : filterBound (inputNext mixed f0 r) := by
  have hr : (r.toNat : Int) ≤ 255 := by have := r.isLt; omega
  have hr0 : (0 : Int) ≤ r.toNat := Int.natCast_nonneg _
  have hprodLo : -16934 * 255 ≤ f0.toInt * r.toNat := by nlinarith
  have hprodHi : f0.toInt * r.toNat ≤ 16934 * 255 := by nlinarith
  obtain ⟨hfloor, hceil⟩ := asr_spec (f0.toInt * r.toNat) 8
  have hfits : -17000 ≤ mixed - asr (f0.toInt * r.toNat) 8 ∧ mixed - asr (f0.toInt * r.toNat) 8 ≤ 17000 := by omega
  rw [filterBound, inputNext, store16_toInt (by omega) (by omega)]
  exact hfits

/-- The phases after the envelope slot keep the filter within its bound. -/
theorem finishSample_filterBound {s : State} (h0 : filterBound s.f0) (h1 : filterBound s.f1) (h2 : filterBound s.f2)
    (d : Voice) (smp : Bank Byte) :
    filterBound (finishSample d smp s).f0 ∧ filterBound (finishSample d smp s).f1 ∧
    filterBound (finishSample d smp s).f2 := by
  by_cases hc : s.cutoff = 255
  · obtain ⟨-, hf0, hf1, hf2⟩ := finishSample_bypassed hc d smp
    rw [hf0, hf1, hf2]
    exact ⟨h0, h1, h2⟩
  · obtain ⟨hf0, hf1, hf2, -⟩ := finishSample_filtering hc d smp
    have hpole0 := poleNext_range h0 h1 s.cutoff
    have hpole1 := poleNext_range h1 h2 s.cutoff
    rw [hf2, hf0, hf1]
    refine ⟨?_, ?_, inputNext_range (mix_range smp (amplitudes s)) hpole0 s.res⟩
    · simp only [filterBound]; omega
    · simp only [filterBound]; omega

/-- A register that holds a value modulo 256 holds what storing the value leaves. -/
theorem eq_store8_of_toNat {x : Byte} {z : Int} (h : (x.toNat : Int) = z % 256) : x = store8 z :=
  BitVec.eq_of_toNat_eq (by have := store8_toNat z; omega)

theorem sample_selectorsLegal {s t : State} (h : perform .sample s = .next t) (hs : s.selectorsLegal) :
    t.selectorsLegal := by
  intro v
  obtain ⟨-, -, -, hwsel, hesel, -⟩ := sample_parameters h v
  rw [hwsel, hesel]
  exact hs v

/-- The slot index goes on following the counter when both count a step. -/
theorem slot_follows_count_step {rr : Voice} {scnt : BitVec 32} (h : rr.val = scnt.toNat % 4) :
    (rr + 1).val = (scnt + 1).toNat % 4 := by
  have hslot : (rr + 1).val = (rr.val + 1) % 4 := Fin.val_add rr 1
  have hcount : (scnt + 1).toNat = (scnt.toNat + 1) % 2 ^ 32 := BitVec.toNat_add scnt 1
  omega

theorem sample_inv {s t : State} (h : perform .sample s = .next t) (hs : s.Inv) : t.Inv := by
  have hparam := sample_parameters h
  obtain ⟨-, -, hfmd, -⟩ := sample_shared h
  have hdepths : ∀ v, depthLegal (t.voice v).md := fun v => by
    obtain ⟨-, -, hmd, -⟩ := hparam v
    rw [hmd]; exact hs.depths v
  have hoctaves : ∀ v, octoffLegal (t.voice v).octoff := fun v => by
    obtain ⟨-, -, -, -, -, hoctoff⟩ := hparam v
    rw [hoctoff]; exact hs.octaves v
  have hselectors := sample_selectorsLegal h hs.selectors
  have hfilterDepth : depthLegal t.fmd := hfmd ▸ hs.filterDepth
  rcases sample_outcome h with ⟨-, rfl⟩ | ⟨hen, g, smp, -, -, ht, -⟩
  · exact { hs with }
  · obtain ⟨hf0, hf1, hf2⟩ := finishSample_filterBound (s := s.silent.setVoice s.rr g) hs.filter0 hs.filter1 hs.filter2
      s.rr smp
    have hdac := finishSample_dac_of_yout s.rr smp (s.silent.setVoice s.rr g)
    rw [← ht] at hf0 hf1 hf2 hdac
    obtain ⟨hrr, hscnt⟩ := sample_rr_scnt hen h
    exact ⟨hselectors, hdepths, hfilterDepth, hoctaves, hf0, hf1, hf2, eq_store8_of_toNat hdac,
      by rw [hrr, hscnt]; exact slot_follows_count_step hs.slotFollowsCount⟩

/-! ### The invariant through every event and every step -/

theorem reset_inv : State.reset.Inv :=
  ⟨by decide, by decide, by decide, by decide, by decide, by decide, by decide, by decide, by decide⟩

/-- The invariant speaks of registers only: neither the events still to come nor the count of arrivals matter. -/
theorem inv_with_inbox {s : State} (hs : s.Inv) (inbox : List Event) (arrivals : Nat) :
    State.Inv { s with inbox := inbox, arrivals := arrivals } :=
  { hs with }

theorem perform_inv {e : Event} {s t : State} (h : perform e s = .next t) (hs : s.Inv) : t.Inv := by
  cases e with
  | reset => cases h; exact inv_with_inbox reset_inv s.inbox s.arrivals
  | sample => exact sample_inv h hs
  | cmd w =>
    rcases command_outcome h with ⟨c, -, rfl⟩ | ⟨i, -, he⟩
    · exact { hs with }
    · exact exec_inv he hs

theorem step_inv {s t : State} (h : step s = .next t) (hs : s.Inv) : t.Inv := by
  obtain ⟨inbox, arrivals, htake⟩ := takeEvent_frame s
  rw [step, htake] at h
  exact perform_inv h (inv_with_inbox hs inbox arrivals)

theorem perform_next (e : Event) {s : State} (hs : s.selectorsLegal) : ∃ t, perform e s = .next t := by
  cases e with
  | reset => exact ⟨_, rfl⟩
  | sample => exact sampleEvent_next Config.tables s hs
  | cmd w => exact command_next w s

theorem perform_selectorsLegal {e : Event} {s t : State} (h : perform e s = .next t) (hs : s.selectorsLegal) :
    t.selectorsLegal := by
  cases e with
  | reset => cases h; exact reset_inv.selectors
  | sample => exact sample_selectorsLegal h hs
  | cmd w =>
    rcases command_outcome h with ⟨c, -, rfl⟩ | ⟨i, -, he⟩
    · exact hs
    · exact exec_selectorsLegal he hs

theorem step_next {s : State} (hs : s.selectorsLegal) : ∃ t, step s = .next t := by
  obtain ⟨inbox, arrivals, htake⟩ := takeEvent_frame s
  rw [step, htake]
  exact perform_next _ hs

/-- A run from a state with the invariant completes and ends with the invariant. -/
theorem run_inv (k : Nat) {s : State} (hs : s.Inv) : ∃ t : State, Sys2Proof.core.run k s = .next t ∧ t.Inv := by
  induction k generalizing s with
  | zero => exact ⟨s, rfl, hs⟩
  | succ k ih =>
    obtain ⟨u, hu⟩ := step_next hs.selectors
    obtain ⟨t, ht, hinv⟩ := ih (step_inv hu hs)
    exact ⟨t, (run_succ k hu).trans ht, hinv⟩

/-! ### The obligations -/

/-- Settles O44: the nine parts of the invariant, by evaluation of the reset state. -/
theorem resetMeetsTheInvariant : Obligations.ResetMeetsTheInvariant := by
  unfold Obligations.ResetMeetsTheInvariant
  exact reset_inv

/-- Settles O45: event by event; the filter bound is the one that needs the new pole's own, narrower range. -/
theorem everyStepKeepsTheInvariant : Obligations.EveryStepKeepsTheInvariant := by
  unfold Obligations.EveryStepKeepsTheInvariant
  exact fun s t hs h => step_inv h hs

/-- Settles O46: every event completes by `perform_next` and keeps the selectors by `perform_selectorsLegal`. -/
theorem noEventStopsTheMachine : Obligations.NoEventStopsTheMachine := by
  unfold Obligations.NoEventStopsTheMachine
  intro e s hs
  obtain ⟨t, ht⟩ := perform_next e hs
  exact ⟨t, ht, perform_selectorsLegal ht hs⟩

/-- Settles O47: the invariant holds at reset, whatever is placed, and every step completes and keeps it. -/
theorem everyExecutionFromResetIsSound : Obligations.EveryExecutionFromResetIsSound := by
  unfold Obligations.EveryExecutionFromResetIsSound
  exact fun script k => run_inv k (inv_with_inbox reset_inv script 0)

end Sys2Proof.Machine

namespace Sys2Proof.Machine

/-- A bit that is kept neither falls nor rises, so nothing is asked of the event. -/
theorem bit_kept {b b' : Bool} {P Q : Prop} (h : b' = b) :
    (b = true → b' = false → P) ∧ (b = false → b' = true → Q) := by
  subst h
  cases b' <;> simp

/-! ### The free bit (42_envelope_voicefree R98) -/

/-- The free bit is a view of `EACC` alone. -/
theorem State.free_congr {s t : State} {v : Voice} (h : (t.voice v).eacc = (s.voice v).eacc) : t.free v = s.free v :=
  congrArg topBit h

/-- A command keeps a voice's free bit, or it is a trigger of that voice and clears it. -/
theorem exec_free {i : Instr} {s t : State} (h : exec i s = .next t) (v : Voice) :
    t.free v = s.free v ∨ (t.free v = false ∧ (i = .trig v ∨ ∃ note, i = .trign v note)) := by
  by_cases hm : Reg.eacc v ∈ mayWrite i
  · cases i with
    | trig u =>
      obtain rfl : v = u := by simpa [mayWrite] using hm
      exact .inr ⟨trig_free h, .inl rfl⟩
    | trign u note =>
      obtain rfl : v = u := by simpa [mayWrite] using hm
      have hvoice : t.voice v = voiceEffect (.trign v note) (s.voice v) := (exec_voice h v).trans (if_pos rfl)
      cases hn : shiftedNote note (s.voice v).octoff with
      | some n =>
        rw [voiceEffect_trign_of_some hn] at hvoice
        exact .inr ⟨by simp [State.free_eq, hvoice], .inr ⟨note, rfl⟩⟩
      | none =>
        rw [voiceEffect_trign_of_none hn] at hvoice
        exact .inl (State.free_congr (congrArg VoiceRegs.eacc hvoice))
    | _ => simp [mayWrite] at hm
  · have hkept : t.reg (.eacc v) = s.reg (.eacc v) := exec_reg_of_not_mem h hm
    exact .inl (State.free_congr (BitVec.eq_of_toNat_eq hkept))

/-- A sample event keeps a free voice free, and changes no other voice's free bit than that of the performed slot. -/
theorem sample_free {s t : State} (h : perform .sample s = .next t) (v : Voice) :
    (s.free v = true → t.free v = true) ∧ (t.free v ≠ s.free v → s.en = true ∧ s.rr = v) := by
  cases hen : s.en with
  | false =>
    rw [sample_suspended hen] at h
    cases h
    exact ⟨fun hfree => hfree, fun hne => absurd rfl hne⟩
  | true =>
    by_cases hv : v = s.rr
    · subst hv
      refine ⟨fun hfree => ?_, fun _ => ⟨rfl, rfl⟩⟩
      obtain ⟨g, hg, heacc, -⟩ := sample_envelope_slot hen h
      obtain ⟨-, -, hkept⟩ := envSlot_effect hg
      rw [State.free_eq, decide_eq_true_eq] at hfree
      rw [State.free_eq, decide_eq_true_eq, heacc, (hkept hfree).1]
      exact hfree
    · have hkept : t.free v = s.free v := State.free_congr (sample_envelope_of_ne hen h hv).1
      exact ⟨fun hfree => hkept.trans hfree, fun hne => absurd hkept hne⟩

/-- Settles O48: reset frees every voice; the sample event by `sample_free`; a command by `exec_free`. -/
theorem freeBitChangesOnlyByTriggerSlotOrReset : Obligations.FreeBitChangesOnlyByTriggerSlotOrReset := by
  unfold Obligations.FreeBitChangesOnlyByTriggerSlotOrReset
  intro e s t v h
  cases e with
  | reset =>
    cases h
    have hfree : s.resetRegisters.free v = true := by
      rw [State.free, show s.resetRegisters.voice v = VoiceRegs.reset from State.reset_voice v]; rfl
    exact ⟨fun _ hbusy => by simp [hfree] at hbusy, fun _ _ => .inl rfl⟩
  | sample =>
    obtain ⟨hkept, hslot⟩ := sample_free h v
    refine ⟨fun hfree hbusy => ?_, fun hbusy hfree => .inr ⟨rfl, hslot ?_⟩⟩
    · simp [hkept hfree] at hbusy
    · simp [hbusy, hfree]
  | cmd w =>
    rcases command_outcome h with ⟨c, -, rfl⟩ | ⟨i, hd, he⟩
    · exact bit_kept rfl
    · rcases exec_free he v with hkept | ⟨hbusy, htrigger⟩
      · exact bit_kept hkept
      · refine ⟨fun _ _ => ⟨w, rfl, ?_⟩, fun _ hfree => by simp [hbusy] at hfree⟩
        rcases htrigger with rfl | ⟨note, rfl⟩
        · exact .inl hd
        · exact .inr ⟨note, hd⟩

/-! ### The sample counter (10_state R27) -/

/-- Settles O50: a performed step by `sample_rr_scnt`; nothing else but reset writes the counter. -/
theorem sampleCounterCountsPerformedSteps : Obligations.SampleCounterCountsPerformedSteps := by
  unfold Obligations.SampleCounterCountsPerformedSteps
  intro e s t h hreset
  cases e with
  | reset => exact absurd rfl hreset
  | sample =>
    cases hen : s.en with
    | true => rw [if_pos ⟨rfl, rfl⟩]; exact (sample_rr_scnt hen h).2
    | false =>
      rw [sample_suspended hen] at h
      cases h
      simp
  | cmd w =>
    rw [if_neg (by simp)]
    rcases command_outcome h with ⟨c, -, rfl⟩ | ⟨i, -, he⟩
    · rfl
    · obtain ⟨-, -, -, -, -, -, hscnt⟩ := exec_datapath he
      exact hscnt

/-! ### The run flag (10_state R28) -/

/-- `SUSPEND` clears the run flag, `RESUME` sets it, and every other command keeps it. -/
theorem exec_en {i : Instr} {s t : State} (h : exec i s = .next t) :
    t.en = if i = .suspend then false else if i = .resume then true else s.en := by
  rw [exec_next_eq h]
  cases i <;> rfl

/-- Settles O51: a sample event keeps the flag (`sample_shared`), a command does what `exec_en` says. -/
theorem runFlagChangesOnlyByRunControl : Obligations.RunFlagChangesOnlyByRunControl := by
  unfold Obligations.RunFlagChangesOnlyByRunControl
  intro e s t h
  cases e with
  | reset =>
    cases h
    exact ⟨fun _ _ => .inl rfl, fun _ hrun => by cases hrun⟩
  | sample =>
    obtain ⟨-, -, -, hen, -⟩ := sample_shared h
    exact bit_kept hen
  | cmd w =>
    rcases command_outcome h with ⟨c, -, rfl⟩ | ⟨i, hd, he⟩
    · exact bit_kept (State.raiseError_en s c)
    · rw [exec_en he]
      refine ⟨fun hrun hstop => .inr ⟨w, rfl, ?_⟩, fun hstop hrun => ⟨w, rfl, ?_⟩⟩
      · by_cases hi : i = .suspend
        · rw [hd, hi]
        · simp [hi, hrun] at hstop
      · by_cases hi : i = .resume
        · rw [hd, hi]
        · simp [hi, hstop] at hrun

/-! ### The filter-modulation depth (10_state R24) -/

/-- A running sample event with a slot and samples is the whole sample step. -/
theorem sampleEvent_of_samples {T : Tables} {s : State} {g : VoiceRegs} {smp : Bank Byte} (hen : s.en = true)
    (hg : envSlot T (s.voice s.rr) = some g) (hsmp : oscSamples T (s.silent.setVoice s.rr g) = some smp) :
    sampleEvent T s = .next (finishSample s.rr smp (s.silent.setVoice s.rr g)) := by
  simp [sampleEvent, hen, sampleStep, envStep, hg, hsmp]

/-- The filter reads no `FMD`. -/
theorem filterStep_with_fmd (m : Int) (s : State) (x : Byte) :
    filterStep m { s with fmd := x } = { filterStep m s with fmd := x } := by
  by_cases hc : s.cutoff = 255
  · rw [filterStep_bypassed hc]
    exact filterStep_bypassed (s := { s with fmd := x }) hc m
  · rw [filterStep_filtering hc]
    exact filterStep_filtering (s := { s with fmd := x }) hc m

/-- The phases after the envelope slot neither read nor write `FMD`. -/
theorem finishSample_with_fmd (d : Voice) (smp : Bank Byte) (s : State) (x : Byte) :
    finishSample d smp { s with fmd := x } = { finishSample d smp s with fmd := x } := by
  have hosc : oscAdvance { s with fmd := x } = { oscAdvance s with fmd := x } := rfl
  have hout : ∀ m, filterOut m { oscAdvance s with fmd := x } = filterOut m (oscAdvance s) := fun m => rfl
  simp only [finishSample, hosc, hout, filterStep_with_fmd]
  rfl

/-- A sample event neither reads nor writes `FMD`. -/
theorem sample_with_fmd {s t : State} (h : perform .sample s = .next t) (x : Byte) :
    perform .sample { s with fmd := x } = .next { t with fmd := x } := by
  rcases sample_outcome h with ⟨hen, rfl⟩ | ⟨hen, g, smp, hg, hsmp, rfl, -⟩
  · exact sample_suspended (s := { s with fmd := x }) hen
  · rw [← finishSample_with_fmd]
    exact sampleEvent_of_samples (s := { s with fmd := x }) hen hg hsmp

/-- The only register number that reads `FMD` is 0x15, with voice 0 (20_memory R41). -/
theorem regRead_with_fmd (s : State) {v : Voice} {r : BitVec 8} (h : ¬ (v = 0 ∧ r = 0x15#8)) (x : Byte) :
    regRead { s with fmd := x } v r = regRead s v r := by
  have hshared : v = 0 → sharedImage { s with fmd := x } r.toNat = sharedImage s r.toNat := fun hv => by
    have hr : r.toNat ≠ 0x15 := fun hr => h ⟨hv, BitVec.eq_of_toNat_eq hr⟩
    generalize r.toNat = n at hr
    unfold sharedImage
    split
    case h_6 => exact absurd rfl hr
    all_goals rfl
  unfold regRead
  have hvoice : State.voice { s with fmd := x } v = s.voice v := rfl
  rw [hvoice]
  cases voiceImage (s.voice v) r.toNat with
  | some y => rfl
  | none =>
    by_cases hv : v = 0
    · simp only [hv, if_true]; exact hshared hv
    · simp only [hv, if_false]

/-- A command but `RDREG 0, 0x15` answers the same whatever `FMD` holds. -/
theorem responseOf_with_fmd {i : Instr} (hi : i ≠ .rdreg 0 0x15) (s : State) (x : Byte) :
    responseOf i { s with fmd := x } = responseOf i s := by
  cases i with
  | rdreg v r =>
    have hne : ¬ (v = 0 ∧ r = 0x15#8) := fun ⟨hv, hr⟩ => hi (by rw [hv, hr]; rfl)
    simp only [responseOf, regRead_with_fmd s hne]
  | _ => rfl

/-- A command's effect on every register but `FMD` is the same whatever `FMD` holds. -/
theorem effect_with_fmd (i : Instr) (s : State) (x : Byte) :
    effect i { s with fmd := x } = { effect i s with fmd := (effect i { s with fmd := x }).fmd } := by
  cases i <;> rfl

/-- Settles O52: reset by evaluation, the sample event by `sample_with_fmd`, a command by its effect and its answer. -/
theorem filterDepthIsInert : Obligations.FilterDepthIsInert := by
  unfold Obligations.FilterDepthIsInert
  intro e s t x h hread
  cases e with
  | reset => cases h; exact ⟨_, rfl⟩
  | sample => exact ⟨x, sample_with_fmd h x⟩
  | cmd w =>
    rcases command_outcome h with ⟨c, hd, rfl⟩ | ⟨i, hd, he⟩
    · exact ⟨x, command_of_decode_error hd _⟩
    · have hi : i ≠ .rdreg 0 0x15 := fun hi => hread w rfl (hd.trans (congrArg Except.ok hi))
      refine ⟨(effect i { s with fmd := x }).fmd, (command_of_decode_ok hd _).trans ?_⟩
      rw [exec_eq, responseOf_with_fmd hi, effect_with_fmd, exec_next_eq he]

/-! ### Independence of the voices -/

/-- What a sample event leaves in a voice depends on that voice, the run flag and the slot index. -/
theorem sample_voice_congr {s s' t t' : State} {v : Voice} (h : perform .sample s = .next t)
    (h' : perform .sample s' = .next t') (hen : s'.en = s.en) (hrr : s'.rr = s.rr) (hv : s'.voice v = s.voice v) :
    t'.voice v = t.voice v := by
  rcases sample_outcome h with ⟨hoff, rfl⟩ | ⟨hon, g, smp, hg, -, -, hvoice⟩ <;>
    rcases sample_outcome h' with ⟨hoff', rfl⟩ | ⟨hon', g', smp', hg', -, -, hvoice'⟩
  · exact hv
  · simp [hen, hoff] at hon'
  · simp [hen, hon] at hoff'
  · rw [hvoice v, hvoice' v, hrr, hv]
    by_cases hslot : v = s.rr
    · rw [hrr, ← hslot, hv, hslot, hg, Option.some.injEq] at hg'
      rw [if_pos hslot, if_pos hslot, hg']
    · rw [if_neg hslot, if_neg hslot]

/-- Settles O53: reset overwrites every voice; the sample event by `sample_voice_congr`; a command by `exec_voice`. -/
theorem voicesDoNotDisturbEachOther : Obligations.VoicesDoNotDisturbEachOther := by
  unfold Obligations.VoicesDoNotDisturbEachOther
  intro e s t t' u v g huv h h'
  have hv : (s.setVoice u g).voice v = s.voice v := State.voice_setVoice_of_ne s g huv.symm
  cases e with
  | reset => cases h; cases h'; rfl
  | sample => exact sample_voice_congr h h' rfl rfl hv
  | cmd w =>
    rcases command_outcome h with ⟨c, hd, rfl⟩ | ⟨i, hd, he⟩ <;>
      rcases command_outcome h' with ⟨c', hd', rfl⟩ | ⟨i', hd', he'⟩
    · exact hv
    · simp [hd] at hd'
    · simp [hd] at hd'
    · obtain rfl : i = i' := Except.ok.inj (hd.symm.trans hd')
      rw [exec_voice he v, exec_voice he' v, hv]

/-! ### The mixer and the bend -/

/-- Settles O39: the range by `mix_range`, both ends by evaluation. -/
theorem mixerStaysInSignedByteRange : Obligations.MixerStaysInSignedByteRange := by
  unfold Obligations.MixerStaysInSignedByteRange
  exact ⟨mix_range, rfl, rfl⟩

/-- An accumulator or a pitch base below 64 has no upper bits to multiply (45_pitch_modulation R116). -/
theorem bendUnit_of_lt {pb e : Word} (h : e.toNat < 64 ∨ pb.toNat < 64) : bendUnit pb e = 0 := by
  unfold bendUnit
  rcases h with h | h <;> simp [Nat.div_eq_of_lt h]

/-- Zero depth multiplies the bend away. -/
theorem pitchWord_zero_depth (pb e : Word) : pitchWord pb e 0 = pb := by
  apply BitVec.eq_of_toNat_eq
  have hword := pitchWord_toNat pb e 0
  have hpb := pb.isLt
  have hdepth : BitVec.toInt (0 : Byte) = 0 := rfl
  rw [hdepth, mul_zero, add_zero] at hword
  omega

/-- Settles O41: zero depth by `pitchWord_zero_depth`, and in the other cases there is no bend unit. -/
theorem zeroDepthLeavesPitchBase : Obligations.ZeroDepthLeavesPitchBase := by
  unfold Obligations.ZeroDepthLeavesPitchBase
  rintro pb e m (rfl | h)
  · exact pitchWord_zero_depth pb e
  · exact pitchWord_of_bendUnit_eq_zero (bendUnit_of_lt h) m

/-! ### The output pins -/

/-- Four bits side by side, the last one lowest. -/
theorem getLsbD_four_bits : ∀ a b c d : Bool,
    let x : BitVec 4 := BitVec.ofBool d ++ BitVec.ofBool c ++ BitVec.ofBool b ++ BitVec.ofBool a
    x.getLsbD 0 = a ∧ x.getLsbD 1 = b ∧ x.getLsbD 2 = c ∧ x.getLsbD 3 = d := by
  decide

/-- Bit `v` of `VFREE_O` is the free bit of voice `v` (10_state R32). -/
theorem vfreeO_getLsbD (s : State) (v : Voice) : s.vfreeO.getLsbD v.val = s.free v := by
  obtain ⟨h0, h1, h2, h3⟩ := getLsbD_four_bits (s.free 0) (s.free 1) (s.free 2) (s.free 3)
  rcases voice_cases v with rfl | rfl | rfl | rfl
  · exact h0
  · exact h1
  · exact h2
  · exact h3

/-- Settles O3: the free bits by `vfreeO_getLsbD`, the other pins and the reset values by evaluation. -/
theorem outputPinsShowState : Obligations.OutputPinsShowState := by
  unfold Obligations.OutputPinsShowState
  exact ⟨vfreeO_getLsbD, fun s => ⟨rfl, rfl, rfl⟩, rfl, rfl, rfl, rfl⟩

/-! ### Which event a step performs -/

theorem step_placed {s : State} {e : Event} {rest : List Event} (h : s.inbox = e :: rest) :
    step s = perform e { s with inbox := rest } := by
  rw [step, takeEvent_placed h]

theorem step_arrival {s : State} (h : s.inbox = []) :
    step s = perform (Config.arrival s.arrivals) { s with arrivals := s.arrivals + 1 } := by
  rw [step, takeEvent_empty h]

/-- Settles O4: both ways of taking an event. -/
theorem nextEventIsPlacedOrArrives : Obligations.NextEventIsPlacedOrArrives := by
  unfold Obligations.NextEventIsPlacedOrArrives
  exact fun s => ⟨fun e rest h => step_placed h, step_arrival⟩

/-- Settles O5: the placed word is taken, then performed as it decodes. -/
theorem stepRunsTheDecodedCommand : Obligations.StepRunsTheDecodedCommand := by
  unfold Obligations.StepRunsTheDecodedCommand
  exact fun s w rest i hinbox hd => (step_placed hinbox).trans (command_of_decode_ok hd _)

/-- Settles O6: the word stands first in the inbox, and taking it gives back the state as it was. -/
theorem fetchedWordIsNextCommand : Obligations.FetchedWordIsNextCommand := by
  unfold Obligations.FetchedWordIsNextCommand
  exact fun s nbits w => step_placed (s := s.withFetchWord nbits w) rfl

end Sys2Proof.Machine

namespace Sys2Proof.Machine

/-! ### Runs of placed events -/

/-- A run performs the first placed event and goes on from there. -/
theorem run_placed {s t : State} {e : Event} {rest : List Event} (k : Nat) (hinbox : s.inbox = e :: rest)
    (h : perform e { s with inbox := rest } = .next t) :
    Sys2Proof.core.run (k + 1) s = Sys2Proof.core.run k t :=
  run_succ k ((step_placed hinbox).trans h)

/-- A placed sample event in a running state completes, leaves the state running and takes itself out of the inbox. -/
theorem sample_placed {s : State} {rest : List Event} (hsel : s.selectorsLegal) (hen : s.en = true) :
    ∃ t, perform .sample { s with inbox := rest } = .next t ∧ t.selectorsLegal ∧ t.en = true ∧ t.inbox = rest := by
  obtain ⟨t, ht⟩ := sampleEvent_next Config.tables { s with inbox := rest } hsel
  obtain ⟨-, -, -, hkept, hinbox, -⟩ := sample_shared ht
  exact ⟨t, ht, sample_selectorsLegal ht hsel, hkept.trans hen, hinbox⟩

/-- Induction over a run of placed sample events: what does not speak of the inbox and goes from step `j` to step
`j + 1` over every performed step, goes from step `j` to step `j + n` over `n` of them. -/
theorem run_samples {P : Nat → State → Prop} (hP : ∀ j s inbox, P j s → P j { s with inbox := inbox })
    (hstep : ∀ j s t, s.en = true → P j s → perform .sample s = .next t → P (j + 1) t) (n : Nat) :
    ∀ (j : Nat) (s : State), s.selectorsLegal → s.en = true → s.inbox = List.replicate n .sample → P j s →
      ∃ t : State, Sys2Proof.core.run n s = .next t ∧ P (j + n) t := by
  induction n with
  | zero => exact fun j s _ _ _ h => ⟨s, rfl, h⟩
  | succ n ih =>
    intro j s hsel hen hinbox h
    obtain ⟨u, hu, husel, huen, huinbox⟩ := sample_placed (rest := List.replicate n .sample) hsel hen
    have hu' : P (j + 1) u := hstep j { s with inbox := List.replicate n .sample } u hen (hP j s _ h) hu
    obtain ⟨t, ht, hPt⟩ := ih (j + 1) u husel huen huinbox hu'
    exact ⟨t, (run_placed n hinbox hu).trans ht, by rwa [Nat.add_right_comm] at hPt⟩

/-! ### The phase over many steps (41_oscillator_bank R92) -/

/-- With zero depth and `TW = PB` a performed step leaves `TW` as it was. -/
theorem sample_tw_of_zero_depth {s t : State} {v : Voice} (hen : s.en = true) (h : perform .sample s = .next t)
    (hmd : (s.voice v).md = 0) (htw : (s.voice v).tw = (s.voice v).pb) : (t.voice v).tw = (s.voice v).tw := by
  by_cases hv : v = s.rr
  · subst hv
    rw [sample_tw_slot hen h, hmd, pitchWord_zero_depth, htw]
  · exact sample_tw_of_ne hen h hv

/-- After `j` steps a voice that bends nothing holds its word `w`, and its phase has moved by `j` words from `p`. -/
def PhaseAfter (v : Voice) (p w j : Nat) (s : State) : Prop :=
  (s.voice v).md = 0 ∧ (s.voice v).tw = (s.voice v).pb ∧ (s.voice v).tw.toNat = w ∧
    (s.voice v).phase.toNat = (p + j * w) % 65536

theorem phaseAfter_step {v : Voice} {p w j : Nat} {s t : State} (hen : s.en = true) (hs : PhaseAfter v p w j s)
    (h : perform .sample s = .next t) : PhaseAfter v p w (j + 1) t := by
  obtain ⟨hmd, htw, hw, hphase⟩ := hs
  obtain ⟨hpbKept, -, hmdKept, -⟩ := sample_parameters h v
  have htwKept := sample_tw_of_zero_depth hen h hmd htw
  refine ⟨hmdKept.trans hmd, by rw [htwKept, hpbKept, htw], by rw [htwKept, hw], ?_⟩
  calc (t.voice v).phase.toNat
    _ = ((s.voice v).phase.toNat + (s.voice v).tw.toNat) % 65536 := by rw [sample_phase hen h v, phaseNext_toNat]
    _ = ((p + j * w) % 65536 + w) % 65536 := by rw [hphase, hw]
    _ = (p + (j + 1) * w) % 65536 := by rw [Nat.mod_add_mod, Nat.succ_mul, Nat.add_assoc]

/-- Settles O54: `PhaseAfter` holds at step 0, and `run_samples` carries it to step `n`. -/
theorem phaseAccumulatesExactly : Obligations.PhaseAccumulatesExactly := by
  unfold Obligations.PhaseAccumulatesExactly
  intro n s v hsel hen hmd htw hinbox
  have hstart : PhaseAfter v (s.voice v).phase.toNat (s.voice v).tw.toNat 0 s := by
    refine ⟨hmd, htw, rfl, ?_⟩
    rw [Nat.zero_mul, Nat.add_zero, Nat.mod_eq_of_lt (s.voice v).phase.isLt]
  obtain ⟨t, ht, hend⟩ := run_samples (P := PhaseAfter v _ _) (fun _ _ _ h => h)
    (fun _ _ _ hen hs h => phaseAfter_step hen hs h) n 0 s hsel hen hinbox hstart
  obtain ⟨-, -, hw, hphase⟩ := hend
  exact ⟨t, ht, BitVec.eq_of_toNat_eq hw, by rwa [Nat.zero_add] at hphase⟩

/-! ### The envelope over many steps (42_envelope_voicefree R99) -/

/-- How many steps there are before the next slot of voice `v`. -/
def slotWait (v rr : Voice) : Nat := (v.val + 4 - rr.val) % 4

theorem slotWait_lt (v rr : Voice) : slotWait v rr < 4 := Nat.mod_lt _ (by decide)

/-- In its own slot a voice waits for nothing and then for three steps; in another one the wait shrinks by a step. -/
theorem slotWait_step : ∀ v rr : Voice,
    (v = rr → slotWait v rr = 0 ∧ slotWait v (rr + 1) = 3) ∧ (v ≠ rr → slotWait v rr = slotWait v (rr + 1) + 1) := by
  decide

/-- The accumulator after `m` slots at rate `r` from 0: exactly `m * r` while that is below 32768, and in the free range
from slot `k` on, `k` being the first with `32768 ≤ k * r`. -/
def RampAfter (r k m : Nat) (eacc : Word) : Prop :=
  (m < k → eacc.toNat = m * r) ∧ (k ≤ m → 32768 ≤ eacc.toNat)

/-- What the bound `k = ceil(32768 / r)` says: slot `k` reaches 32768, and no earlier slot does; and it does so without
a wrap. -/
theorem ceil_slots {r k : Nat} (hr : 1 ≤ r) (hr' : r < 65536) (hk : k = (32768 + r - 1) / r) :
    1 ≤ k ∧ 32768 ≤ k * r ∧ k * r < 65536 ∧ ∀ m, m < k → m * r < 32768 := by
  have hle : k * r ≤ 32768 + r - 1 := hk ▸ Nat.div_mul_le_self _ _
  have hgt : 32768 + r - 1 < k * r + r := by
    have hlt := Nat.lt_div_mul_add (a := 32768 + r - 1) hr
    rwa [← hk] at hlt
  have hbelow : ∀ m, m < k → m * r < 32768 := fun m hm => by
    have hnext : (m + 1) * r ≤ k * r := Nat.mul_le_mul_right r hm
    rw [Nat.succ_mul] at hnext
    omega
  have hk1 : 1 ≤ k := Nat.pos_of_ne_zero fun h0 => by
    rw [h0] at hgt
    omega
  refine ⟨hk1, by omega, ?_, hbelow⟩
  by_cases hone : k = 1
  · rw [hone]
    omega
  · have hfirst := hbelow 1 (by omega)
    omega

/-- One slot takes the ramp one step further, in the active branch as in the free one. -/
theorem rampAfter_step {r k m : Nat} {g g' : VoiceRegs} {T : Tables} (hk : 32768 ≤ k * r) (hwrap : k * r < 65536)
    (hbelow : ∀ m, m < k → m * r < 32768) (hr : g.erate.toNat = r) (hg : envSlot T g = some g')
    (h : RampAfter r k m g.eacc) : RampAfter r k (m + 1) g'.eacc := by
  obtain ⟨-, hactive, hfree⟩ := envSlot_effect hg
  obtain ⟨hexact, hhigh⟩ := h
  by_cases hm : m < k
  · have heacc := hexact hm
    have hnext : (m + 1) * r ≤ k * r := Nat.mul_le_mul_right r hm
    have hadd : g'.eacc.toNat = (m + 1) * r := by
      rw [(hactive (heacc ▸ hbelow m hm)).1, BitVec.toNat_add, heacc, hr, Nat.succ_mul]
      rw [Nat.succ_mul] at hnext
      exact Nat.mod_eq_of_lt (by omega)
    refine ⟨fun _ => hadd, fun hkm => ?_⟩
    obtain rfl : k = m + 1 := by omega
    omega
  · have hge := hhigh (by omega)
    exact ⟨fun h => by omega, fun _ => by rw [(hfree hge).1]; exact hge⟩

/-- After `j` steps a voice at rate `r` has had `m` slots: `4 * m` steps, but for the wait `d` before the first of them
and the wait before the next. -/
def EnvelopeAfter (v : Voice) (r k d j : Nat) (s : State) : Prop :=
  (s.voice v).erate.toNat = r ∧ ∃ m, 4 * m + d = j + slotWait v s.rr ∧ RampAfter r k m (s.voice v).eacc

theorem envelopeAfter_step {v : Voice} {r k d j : Nat} {s t : State} (hk : 32768 ≤ k * r) (hwrap : k * r < 65536)
    (hbelow : ∀ m, m < k → m * r < 32768) (hen : s.en = true) (hs : EnvelopeAfter v r k d j s)
    (h : perform .sample s = .next t) : EnvelopeAfter v r k d (j + 1) t := by
  obtain ⟨hr, m, hcount, hramp⟩ := hs
  obtain ⟨-, herate, -⟩ := sample_parameters h v
  obtain ⟨hrr, -⟩ := sample_rr_scnt hen h
  obtain ⟨hown, hother⟩ := slotWait_step v s.rr
  refine ⟨by rw [herate, hr], ?_⟩
  rw [hrr]
  by_cases hv : v = s.rr
  · obtain ⟨hnow, hnext⟩ := hown hv
    obtain ⟨g, hg, heacc, -⟩ := sample_envelope_slot hen h
    rw [← hv] at hg heacc
    exact ⟨m + 1, by omega, heacc ▸ rampAfter_step hk hwrap hbelow hr hg hramp⟩
  · have hwait := hother hv
    exact ⟨m, by omega, (sample_envelope_of_ne hen h hv).1 ▸ hramp⟩

/-- Settles O55: `run_samples` carries `EnvelopeAfter` to step `n`; by then the voice has had at least `(n - 3) / 4` and
at most `(n + 3) / 4` slots. -/
theorem triggeredVoiceBecomesFreeInTime : Obligations.TriggeredVoiceBecomesFreeInTime := by
  unfold Obligations.TriggeredVoiceBecomesFreeInTime
  intro n k s v hsel hen heacc hrate hk hinbox
  obtain ⟨hk1, hreach, hwrap, hbelow⟩ := ceil_slots hrate (s.voice v).erate.isLt hk
  have hstart : EnvelopeAfter v (s.voice v).erate.toNat k (slotWait v s.rr) 0 s := by
    refine ⟨rfl, 0, by omega, fun _ => ?_, fun hk0 => by omega⟩
    rw [heacc, Nat.zero_mul]
    rfl
  obtain ⟨t, ht, -, m, hcount, hexact, hhigh⟩ := run_samples (P := EnvelopeAfter v _ k _) (fun _ _ _ h => h)
    (fun _ _ _ hen hs h => envelopeAfter_step hreach hwrap hbelow hen hs h) n 0 s hsel hen hinbox hstart
  have hfirst := slotWait_lt v s.rr
  have hlast := slotWait_lt v t.rr
  refine ⟨t, ht, fun hn => ?_, fun hn => ?_⟩
  · rw [State.free_eq, decide_eq_true_eq]
    exact hhigh (by omega)
  · have hm : m < k := by omega
    have hlow := hbelow m hm
    rw [State.free_eq, decide_eq_false_iff_not, hexact hm]
    omega

/-! ### The heartbeat over many steps (40_sample_step R87) -/

/-- What `TICK` answers and leaves, as a placed word. -/
theorem perform_tick (s : State) : perform (.cmd 0x0F000000#32) s = .next
    { s with hb := false, resp := some (if s.hb then 0x00000001#32 else 0x00000000#32) } := by
  rw [← okWord_bitWord, ← exec_tick]
  exact command_of_decode_ok (decode_encode .tick) s

/-- A performed step and a `TICK` after it, from a state with `HB` clear: the answer says whether the step served voice
3, and `HB` is clear again. -/
theorem sample_then_tick {s : State} {rest : List Event} (hsel : s.selectorsLegal) (hen : s.en = true)
    (hhb : s.hb = false) (hinbox : s.inbox = .sample :: .cmd 0x0F000000#32 :: rest) :
    ∃ t : State, (∀ k, Sys2Proof.core.run (k + 2) s = Sys2Proof.core.run k t) ∧ t.selectorsLegal ∧ t.en = true ∧
      t.hb = false ∧ t.rr = s.rr + 1 ∧ t.inbox = rest ∧
      t.resp = some (if s.rr = 3 then 0x00000001#32 else 0x00000000#32) := by
  obtain ⟨u, hu, husel, huen, huinbox⟩ := sample_placed (rest := .cmd 0x0F000000#32 :: rest) hsel hen
  obtain ⟨hurr, -⟩ := sample_rr_scnt (s := { s with inbox := .cmd 0x0F000000#32 :: rest }) hen hu
  have huhb : u.hb = decide (s.rr = 3) := by
    rw [sample_hb hu]
    simp [hhb, hen]
  refine ⟨_, fun k => (run_placed (k + 1) hinbox hu).trans (run_placed k huinbox (perform_tick _)), husel, huen, rfl,
    hurr, rfl, ?_⟩
  simp [huhb]

/-- Settles O57, by induction on the pairs of events: each pair advances the slot by one, and the last one answers. -/
theorem heartbeatAnswersOncePerFourSteps : Obligations.HeartbeatAnswersOncePerFourSteps := by
  unfold Obligations.HeartbeatAnswersOncePerFourSteps
  intro n
  induction n with
  | zero =>
    intro s hsel hen hhb hinbox
    obtain ⟨t, hrun, -, -, -, -, -, hresp⟩ := sample_then_tick hsel hen hhb hinbox
    have hslot : (s.rr.val + 0) % 4 = 3 ↔ s.rr = 3 := by
      generalize s.rr = rr
      revert rr
      decide
    exact ⟨t, hrun 0, by simp only [hresp, hslot]⟩
  | succ n ih =>
    intro s hsel hen hhb hinbox
    obtain ⟨u, hrun, husel, huen, huhb, hurr, huinbox, -⟩ := sample_then_tick hsel hen hhb hinbox
    obtain ⟨t, ht, hresp⟩ := ih u husel huen huhb huinbox
    have hslot : (u.rr.val + n) % 4 = (s.rr.val + (n + 1)) % 4 := by
      have hval : u.rr.val = (s.rr.val + 1) % 4 := hurr ▸ Fin.val_add s.rr 1
      omega
    exact ⟨t, (hrun _).trans ht, hslot ▸ hresp⟩

end Sys2Proof.Machine

namespace Sys2Proof.Machine

/-! ### The counter read recipe (20_memory R53) -/

/-- An answer is no register. -/
theorem State.respond_reg (s : State) (x : Word) (r : Reg) : (s.respond x).reg r = s.reg r := by
  cases r <;> rfl

/-- The three reads answer the halves of the counter and only leave a response. -/
theorem converse_scntReads (s : State) : converse scntReads s =
    ([s.scnt.extractLsb' 16 16, s.scnt.extractLsb' 0 16, s.scnt.extractLsb' 16 16],
      ((s.respond (s.scnt.extractLsb' 16 16)).respond (s.scnt.extractLsb' 0 16)).respond
        (s.scnt.extractLsb' 16 16)) := by
  have hhigh : ∀ u : State, regRead u 0 0x19 = some (u.scnt.extractLsb' 16 16) := fun _ => rfl
  have hlow : ∀ u : State, regRead u 0 0x18 = some (u.scnt.extractLsb' 0 16) := fun _ => rfl
  rw [scntReads, converse_read (hhigh s), converse_read (hlow _), converse_read (hhigh _)]
  rfl

/-- Settles O58: the halves side by side are the counter, and halves that differ are no answer. -/
theorem counterReadRecipeAnswersCount : Obligations.CounterReadRecipeAnswersCount := by
  unfold Obligations.CounterReadRecipeAnswersCount
  refine ⟨fun s => ?_, fun high low high' hne => if_neg hne⟩
  have hcount : s.scnt.extractLsb' 16 16 ++ s.scnt.extractLsb' 0 16 = s.scnt :=
    (BitVec.extractLsb'_append_extractLsb'_eq_extractLsb' rfl).trans BitVec.extractLsb'_eq_self
  rw [converse_scntReads]
  refine ⟨_, _, _, rfl, ?_, fun r => by simp only [State.respond_reg]⟩
  rw [scntOf, if_pos rfl, hcount]

/-! ### A conversation as a whole (30_encoding R73) -/

/-- What the reads of a list answer: each register's image. -/
theorem converse_reads {is : List Instr} {s : State} {f : Instr → Word}
    (h : ∀ i ∈ is, ∃ v r, i = .rdreg v r ∧ regRead s v r = some (f i)) : (converse is s).1 = is.map f := by
  induction is generalizing s with
  | nil => rfl
  | cons i is ih =>
    obtain ⟨v, r, hi, hr⟩ := h i (by simp)
    rw [hi, converse_read (hi ▸ hr), List.map_cons]
    exact congrArg (f (.rdreg v r) :: ·) (ih fun j hj => h j (List.mem_cons_of_mem i hj))

/-- What each command does to a view of the state, a conversation does to it command by command. -/
theorem converse_view {α : Type} {f : State → α} {F : Instr → α → α}
    (hF : ∀ i s t, exec i s = .next t → f t = F i (f s)) (is : List Instr) (s : State) :
    f (converse is s).2 = is.foldl (fun a i => F i a) (f s) := by
  induction is generalizing s with
  | nil => rfl
  | cons i is ih =>
    obtain ⟨t, ht⟩ := exec_next i s
    rw [converse_state ht, ih, List.foldl_cons, hF i s t ht]

/-- What a command does to the registers of voice `w`. -/
def voiceEffectOn (w : Voice) (i : Instr) (g : VoiceRegs) : VoiceRegs := if w = addressed i then voiceEffect i g else g

theorem converse_voice (is : List Instr) (s : State) (w : Voice) :
    (converse is s).2.voice w = is.foldl (fun g i => voiceEffectOn w i g) (s.voice w) :=
  converse_view (f := (·.voice w)) (F := voiceEffectOn w) (fun _ _ _ h => exec_voice h w) is s

/-- The registers that belong to no voice. -/
def State.shared (s : State) : State := { s with voices := State.reset.voices, resp := none }

theorem State.shared_fmd (s : State) : s.shared.fmd = s.fmd := rfl
theorem State.shared_cutoff (s : State) : s.shared.cutoff = s.cutoff := rfl
theorem State.shared_res (s : State) : s.shared.res = s.res := rfl
theorem State.shared_en (s : State) : s.shared.en = s.en := rfl

theorem converse_shared (is : List Instr) (s : State) :
    (converse is s).2.shared = is.foldl (fun a i => sharedEffect i a) s.shared := by
  refine converse_view (f := State.shared) (F := sharedEffect) (fun i s t h => ?_) is s
  rw [exec_next_eq h]
  cases i <;> rfl

/-! ### A patch value, read and written back (30_encoding R73) -/

theorem signExtend_toInt (x : Byte) : (x.signExtend 16).toInt = x.toInt :=
  BitVec.toInt_signExtend_of_le (by decide)

theorem centred_restores {m : Byte} (h : depthLegal m) : centred (BitVec.setWidth 7 (m.signExtend 16 + 64#16)) = m := by
  apply BitVec.eq_of_toInt_eq
  have hm := signExtend_toInt m
  rw [BitVec.toInt_eq_toNat_cond] at hm
  obtain ⟨hlo, hhi⟩ := h
  have hx := (m.signExtend 16).isLt
  rw [centred_toInt, BitVec.toNat_setWidth, BitVec.toNat_add, BitVec.toNat_ofNat]
  split at hm <;> omega

theorem octaveOffset_restores {o : Byte} (h : octoffLegal o) :
    octaveOffset (BitVec.ofInt 8 ((o.signExtend 16).toInt / 12)) = some o := by
  obtain ⟨hmul, hlo, hhi⟩ := h
  have hdelta : (BitVec.ofInt 8 (o.toInt / 12)).toInt = o.toInt / 12 := by
    rw [BitVec.toInt_ofInt, Int.bmod_def]
    omega
  rw [signExtend_toInt]
  obtain ⟨x, hx, hvalue⟩ := octaveOffset_of_in_range (delta := BitVec.ofInt 8 (o.toInt / 12)) (by omega)
  rw [hx, BitVec.eq_of_toInt_eq (show x.toInt = o.toInt by omega)]

theorem byte_restores (x : Byte) : BitVec.setWidth 8 (x.setWidth 16) = x := by
  simp

theorem waveSelect_restores {w : BitVec 3} (h : w.toNat ≤ 5) : waveSelect (BitVec.setWidth 8 (w.setWidth 16)) = w := by
  revert w; decide

theorem envSelect_restores {e : BitVec 3} (h : e.toNat ≤ 4) : envSelect (BitVec.setWidth 8 (e.setWidth 16)) = e := by
  revert e; decide

/-! ### The patch of a state -/

/-- The commands that put a state's patch back: what `patchImport` makes of its export. -/
def restoreCommands (s : State) : List Instr :=
  Instr.suspend :: List.flatten
    [perVoice fun v => Instr.setmod v (BitVec.setWidth 7 ((s.voice v).md.signExtend 16 + 64#16)),
     [Instr.setfmod (BitVec.setWidth 7 (s.fmd.signExtend 16 + 64#16))],
     perVoice fun v => Instr.setwave v (BitVec.setWidth 8 ((s.voice v).wsel.setWidth 16)),
     perVoice fun v => Instr.setenv v (BitVec.setWidth 8 ((s.voice v).esel.setWidth 16)),
     perVoice fun v => Instr.seteratew v (s.voice v).erate,
     perVoice fun v => Instr.setoct v (BitVec.ofInt 8 (((s.voice v).octoff.signExtend 16).toInt / 12)),
     [Instr.setcut (BitVec.setWidth 8 (s.cutoff.setWidth 16)), Instr.setres (BitVec.setWidth 8 (s.res.setWidth 16))]] ++
    [Instr.resume]

/-- What an export reads: the image of each register of the patch. -/
def readImage (s : State) : Instr → Word
  | .rdreg v r => (regRead s v r).getD 0
  | _ => 0

/-- A command that reads a register that there is. -/
def readsNamed : Instr → Bool
  | .rdreg v r => registerNamed v r
  | _ => false

theorem patchReads_image (s : State) (i : Instr) (hi : i ∈ patchReads) :
    ∃ v r, i = .rdreg v r ∧ regRead s v r = some (readImage s i) := by
  have hnamed : ∀ i ∈ patchReads, readsNamed i = true := by decide
  have hi' := hnamed i hi
  cases i with
  | rdreg v r =>
    obtain ⟨x, hx⟩ := exists_regRead_of_named s v hi'
    exact ⟨v, r, rfl, by simp only [readImage, hx, Option.getD_some]⟩
  | _ => cases hi'

theorem patchImport_export (s : State) : patchImport (converse patchReads s).1 = some (restoreCommands s) := by
  rw [converse_reads (patchReads_image s)]
  rfl

/-- Of one command for each voice, voice `v` sees its own. -/
theorem foldl_perVoice_voice {F : Voice → Instr} (hF : ∀ w, addressed (F w) = w) (v : Voice) (g : VoiceRegs) :
    (perVoice F).foldl (fun g i => voiceEffectOn v i g) g = voiceEffect (F v) g := by
  simp only [perVoice, List.foldl_cons, List.foldl_nil, voiceEffectOn, hF]
  rcases voice_cases v with rfl | rfl | rfl | rfl <;> simp

/-- Commands that write no shared register leave the shared registers alone. -/
theorem foldl_perVoice_shared {F : Voice → Instr} (hF : ∀ w a, sharedEffect (F w) a = a) (a : State) :
    (perVoice F).foldl (fun a i => sharedEffect i a) a = a := by
  simp only [perVoice, List.foldl_cons, List.foldl_nil, hF]

theorem restoreCommands_voice (s : State) (g : VoiceRegs) (v : Voice) :
    (restoreCommands s).foldl (fun g i => voiceEffectOn v i g) g =
      voiceEffect (.setoct v (BitVec.ofInt 8 (((s.voice v).octoff.signExtend 16).toInt / 12))) { g with
        md := centred (BitVec.setWidth 7 ((s.voice v).md.signExtend 16 + 64#16))
        wsel := waveSelect (BitVec.setWidth 8 ((s.voice v).wsel.setWidth 16))
        esel := envSelect (BitVec.setWidth 8 ((s.voice v).esel.setWidth 16))
        erate := (s.voice v).erate } := by
  have hnone : ∀ (i : Instr) (g : VoiceRegs), voiceEffect i g = g → voiceEffectOn v i g = g := fun i g h => by
    rw [voiceEffectOn, h, ite_self]
  simp only [restoreCommands, List.cons_append, List.flatten_cons, List.flatten_nil, List.append_nil, List.foldl_cons,
    List.foldl_append, List.foldl_nil]
  rw [hnone .suspend _ rfl, foldl_perVoice_voice (fun _ => rfl), hnone (.setfmod _) _ rfl,
    foldl_perVoice_voice (fun _ => rfl), foldl_perVoice_voice (fun _ => rfl), foldl_perVoice_voice (fun _ => rfl),
    foldl_perVoice_voice (fun _ => rfl), hnone (.setcut _) _ rfl, hnone (.setres _) _ rfl, hnone .resume _ rfl]
  simp only [voiceEffect]

theorem restoreCommands_shared (s a : State) :
    (restoreCommands s).foldl (fun a i => sharedEffect i a) a = { a with
      en := true
      fmd := centred (BitVec.setWidth 7 (s.fmd.signExtend 16 + 64#16))
      cutoff := BitVec.setWidth 8 (s.cutoff.setWidth 16)
      res := BitVec.setWidth 8 (s.res.setWidth 16) } := by
  simp only [restoreCommands, List.cons_append, List.flatten_cons, List.flatten_nil, List.append_nil, List.foldl_cons,
    List.foldl_append, List.foldl_nil]
  rw [foldl_perVoice_shared (fun _ _ => rfl), foldl_perVoice_shared (fun _ _ => rfl),
    foldl_perVoice_shared (fun _ _ => rfl), foldl_perVoice_shared (fun _ _ => rfl),
    foldl_perVoice_shared (fun _ _ => rfl)]
  simp only [sharedEffect]

/-- Importing the patch of a state with the invariant gives each voice back its five parameters. -/
theorem import_voice {s : State} (hs : s.Inv) (u : State) (v : Voice) :
    (converse (restoreCommands s) u).2.voice v = { u.voice v with
      md := (s.voice v).md
      wsel := (s.voice v).wsel
      esel := (s.voice v).esel
      erate := (s.voice v).erate
      octoff := (s.voice v).octoff } := by
  obtain ⟨hwsel, hesel⟩ := hs.selectors v
  rw [converse_voice, restoreCommands_voice, voiceEffect_setoct_of_some (octaveOffset_restores (hs.octaves v)),
    centred_restores (hs.depths v), waveSelect_restores hwsel, envSelect_restores hesel]

/-- Importing it gives the shared registers back too, and ends with the block running. -/
theorem import_shared {s : State} (hs : s.Inv) (u : State) :
    (converse (restoreCommands s) u).2.shared =
      { u.shared with en := true, fmd := s.fmd, cutoff := s.cutoff, res := s.res } := by
  rw [converse_shared, restoreCommands_shared, centred_restores hs.filterDepth, byte_restores, byte_restores]

/-- Settles O56: the export is `restoreCommands`, whose effect is `import_voice` and `import_shared`. -/
theorem patchImportRestoresParameters : Obligations.PatchImportRestoresParameters := by
  unfold Obligations.PatchImportRestoresParameters
  intro s u hs
  have hshared := import_shared hs u
  refine ⟨restoreCommands s, _, patchImport_export s, rfl, fun v => ?voice, ?fmd, ?cutoff, ?res, ?en⟩
  case voice => rw [import_voice hs u v]; exact ⟨rfl, rfl, rfl, rfl, rfl, rfl⟩
  case fmd => rw [← State.shared_fmd, hshared]
  case cutoff => rw [← State.shared_cutoff, hshared]
  case res => rw [← State.shared_res, hshared]
  case en => rw [← State.shared_en, hshared]

end Sys2Proof.Machine

namespace Sys2Proof.Machine

/-! ### The mnemonics (30_encoding R63, R68) -/

/-- A mnemonic is no directive, and the table gives its command. -/
theorem mnemonics_spec : ∀ p ∈ mnemonics, p.1 ≠ "SAMPLE".toList ∧ p.1 ≠ "RESET".toList ∧ p.1 ≠ "SETPITCHF".toList ∧
    mnemonics.lookup p.1 = some p.2 := by
  decide

/-- A mnemonic's statement stands for its word. -/
theorem statementEvents_mnemonic {name : List Char} {c : Opcode} (h : (name, c) ∈ mnemonics) (fs : Nat)
    (operands : List (List Char)) :
    statementEvents fs name operands = (statementWord c operands).map fun w => [.cmd w] := by
  obtain ⟨hsample, hreset, hpitch, hlookup⟩ := mnemonics_spec (name, c) h
  exact statementEvents_command fs operands hsample hreset hpitch hlookup

/-! ### Voices and operands as text (30_encoding R61, R68) -/

theorem voiceText_voiceDigit (v : Voice) : voiceText (voiceDigit v) = some (BitVec.ofFin v) := by
  rcases voice_cases v with rfl | rfl | rfl | rfl <;> rfl

theorem voiceText_of_no_digit {d : List Char} (h : ∀ v, d ≠ voiceDigit v) : voiceText d = none := by
  unfold voiceText
  split
  · exact absurd rfl (h 0)
  · exact absurd rfl (h 1)
  · exact absurd rfl (h 2)
  · exact absurd rfl (h 3)
  · rfl

theorem operandLimit_eq (f : Format) : operandLimit f = 2 ^ f.operandWidth := by
  cases f <;> rfl

/-- A number that fits a field is that field's value, zero-extended. -/
theorem setWidth_ofNat_of_lt {k n : Nat} (hn : n < 2 ^ k) :
    (BitVec.ofNat k n).setWidth 16 = BitVec.ofNat 16 n := by
  apply BitVec.eq_of_toNat_eq
  rw [BitVec.toNat_setWidth, BitVec.toNat_ofNat, BitVec.toNat_ofNat, Nat.mod_eq_of_lt hn]

theorem numberOperand_of_number {x : List Char} {n : Nat} (h : numberText x = some n) (f : Format) :
    numberOperand f x = if n < operandLimit f then some (BitVec.ofNat 16 n) else none := by
  simp only [numberOperand, h]

theorem octaveOperand_of_signed {x : List Char} {z : Int} (h : signedText x = some z) :
    octaveOperand x = if -128 ≤ z ∧ z ≤ 127 then some ((BitVec.ofInt 8 z).setWidth 16) else none := by
  simp only [octaveOperand, h]

/-- An operand that is accepted leaves the bits above its field 0. -/
theorem operandText_fits {c : Opcode} {x : List Char} {imm : BitVec 16} (h : operandText c x = some imm) :
    imm &&& c.format.immMask = 0 := by
  unfold operandText at h
  split at h
  next hc =>
    subst hc
    unfold octaveOperand at h
    split at h
    next z _ =>
      split at h <;> cases h
      exact setWidth_and_high (BitVec.ofInt 8 z)
    next => cases h
  next =>
    unfold numberOperand at h
    split at h
    next n _ =>
      split at h <;> cases h
      next hn =>
        rw [operandLimit_eq] at hn
        rw [← setWidth_ofNat_of_lt hn]
        exact setWidth_and_high _
    next => cases h

/-! ### Statements as words (30_encoding R68) -/

theorem voiceOperandWord_eq_some {c : Opcode} {d x : List Char} {w : CmdWord} (h : voiceOperandWord c d x = some w) :
    ∃ v imm, w = assembleFields c.number v imm ∧ imm &&& c.format.immMask = 0 := by
  unfold voiceOperandWord at h
  split at h
  next v imm _ himm => cases h; exact ⟨v, imm, rfl, operandText_fits himm⟩
  next => cases h

theorem voiceWord_eq_some {c : Opcode} {d : List Char} {w : CmdWord} (h : voiceWord c d = some w) :
    ∃ v, w = assembleFields c.number v 0 := by
  obtain ⟨v, -, rfl⟩ := Option.map_eq_some_iff.1 h
  exact ⟨v, rfl⟩

theorem operandWord_eq_some {c : Opcode} {x : List Char} {w : CmdWord} (h : operandWord c x = some w) :
    ∃ imm, w = assembleFields c.number 0 imm ∧ imm &&& c.format.immMask = 0 := by
  obtain ⟨imm, himm, rfl⟩ := Option.map_eq_some_iff.1 h
  exact ⟨imm, rfl, operandText_fits himm⟩

/-- A word that a statement is written as: the command's opcode, and operands that fit the fields. -/
theorem statementWord_eq_some {c : Opcode} {operands : List (List Char)} {w : CmdWord}
    (h : statementWord c operands = some w) : ∃ v imm, w = assembleFields c.number v imm ∧
      v &&& c.format.voiceMask = 0 ∧ imm &&& c.format.immMask = 0 := by
  have hvoice : ∀ v : BitVec 2, v &&& 0#2 = 0 := fun v => BitVec.and_zero
  unfold statementWord at h
  split at h
  case h_1 hf | h_2 hf | h_3 hf =>
    obtain ⟨v, imm, hw, himm⟩ := voiceOperandWord_eq_some h
    exact ⟨v, imm, hw, by rw [hf]; exact hvoice v, himm⟩
  case h_4 hf =>
    obtain ⟨v, hw⟩ := voiceWord_eq_some h
    exact ⟨v, 0, hw, by rw [hf]; exact hvoice v, BitVec.zero_and⟩
  case h_5 hf | h_6 hf =>
    obtain ⟨imm, hw, himm⟩ := operandWord_eq_some h
    exact ⟨0, imm, hw, BitVec.zero_and, himm⟩
  case h_7 =>
    cases h
    exact ⟨0, 0, rfl, BitVec.zero_and, BitVec.zero_and⟩
  case h_8 => cases h

/-- A word that a statement is written as decodes to the statement's command. -/
theorem decode_statementWord {c : Opcode} {operands : List (List Char)} {w : CmdWord}
    (h : statementWord c operands = some w) : ∃ i, decode w = .ok i ∧ i.opcode = c := by
  obtain ⟨v, imm, rfl, hv, himm⟩ := statementWord_eq_some h
  rw [← mask_match_iff, mask_match_iff_fields, opField_assembleFields, rsvField_assembleFields,
    voiceBitsField_assembleFields, immField_assembleFields]
  exact ⟨rfl, rfl, hv, himm⟩

/-! ### The rows of the statements -/

/-- A row of `voiceOperandStatements` is about command `c`: its mnemonic, its statement's word, its field's size, and
the word of its command. -/
structure VoiceOperandRow (row : String × Nat × (Voice → Nat → Instr)) (c : Opcode) : Prop where
  mnemonic : (row.1.toList, c) ∈ mnemonics
  word : ∀ d x, statementWord c [d, x] = voiceOperandWord c d x
  operand : ∀ x, operandText c x = numberOperand c.format x
  limit : row.2.1 = operandLimit c.format
  encoded : ∀ v n, n < row.2.1 →
    encode (row.2.2 v n) = assembleFields c.number (BitVec.ofFin v) (BitVec.ofNat 16 n)

theorem voiceOperandStatements_rows : ∀ row ∈ voiceOperandStatements, ∃ c, VoiceOperandRow row c := by
  have hnarrow : ∀ {k n : Nat} (op : BitVec 8) (v : Voice), n < 2 ^ k →
      assembleFields op (BitVec.ofFin v) ((BitVec.ofNat k n).setWidth 16) =
        assembleFields op (BitVec.ofFin v) (BitVec.ofNat 16 n) :=
    fun op v hn => congrArg (assembleFields op _) (setWidth_ofNat_of_lt hn)
  simp only [voiceOperandStatements, List.forall_mem_cons, List.not_mem_nil, false_imp_iff, implies_true, and_true]
  exact ⟨⟨.setwave, by decide, fun _ _ => rfl, fun _ => rfl, rfl, fun v n hn => hnarrow 0x01#8 v hn⟩,
    ⟨.setpitchn, by decide, fun _ _ => rfl, fun _ => rfl, rfl, fun v n hn => hnarrow 0x02#8 v hn⟩,
    ⟨.setpitchw, by decide, fun _ _ => rfl, fun _ => rfl, rfl, fun v n hn => rfl⟩,
    ⟨.setenv, by decide, fun _ _ => rfl, fun _ => rfl, rfl, fun v n hn => hnarrow 0x04#8 v hn⟩,
    ⟨.seteratel, by decide, fun _ _ => rfl, fun _ => rfl, rfl, fun v n hn => hnarrow 0x05#8 v hn⟩,
    ⟨.seteratew, by decide, fun _ _ => rfl, fun _ => rfl, rfl, fun v n hn => rfl⟩,
    ⟨.setmod, by decide, fun _ _ => rfl, fun _ => rfl, rfl, fun v n hn => hnarrow 0x07#8 v hn⟩,
    ⟨.trign, by decide, fun _ _ => rfl, fun _ => rfl, rfl, fun v n hn => hnarrow 0x0C#8 v hn⟩,
    ⟨.rdreg, by decide, fun _ _ => rfl, fun _ => rfl, rfl, fun v n hn => hnarrow 0x12#8 v hn⟩⟩

/-- A row of `operandStatements` is about command `c`: its mnemonic, its statement's word, its field's size, and the
word of its command. -/
structure OperandRow (row : String × Nat × (Nat → Instr)) (c : Opcode) : Prop where
  mnemonic : (row.1.toList, c) ∈ mnemonics
  word : ∀ x, statementWord c [x] = operandWord c x
  operand : ∀ x, operandText c x = numberOperand c.format x
  limit : row.2.1 = operandLimit c.format
  encoded : ∀ n, n < row.2.1 → encode (row.2.2 n) = assembleFields c.number 0 (BitVec.ofNat 16 n)

theorem operandStatements_rows : ∀ row ∈ operandStatements, ∃ c, OperandRow row c := by
  simp only [operandStatements, List.forall_mem_cons, List.not_mem_nil, false_imp_iff, implies_true, and_true]
  exact ⟨⟨.setfmod, by decide, fun _ => rfl, fun _ => rfl, rfl,
      fun n hn => congrArg (assembleFields 0x08#8 0) (setWidth_ofNat_of_lt hn)⟩,
    ⟨.setcut, by decide, fun _ => rfl, fun _ => rfl, rfl,
      fun n hn => congrArg (assembleFields 0x09#8 0) (setWidth_ofNat_of_lt hn)⟩,
    ⟨.setres, by decide, fun _ => rfl, fun _ => rfl, rfl,
      fun n hn => congrArg (assembleFields 0x0A#8 0) (setWidth_ofNat_of_lt hn)⟩⟩

/-- A row of `voiceStatements` is about command `c`. -/
structure VoiceRow (row : String × (Voice → Instr)) (c : Opcode) : Prop where
  mnemonic : (row.1.toList, c) ∈ mnemonics
  word : ∀ d, statementWord c [d] = voiceWord c d
  encoded : ∀ v, encode (row.2 v) = assembleFields c.number (BitVec.ofFin v) 0

theorem voiceStatements_rows : ∀ row ∈ voiceStatements, ∃ c, VoiceRow row c := by
  simp only [voiceStatements, List.forall_mem_cons, List.not_mem_nil, false_imp_iff, implies_true, and_true]
  exact ⟨⟨.trig, by decide, fun _ => rfl, fun _ => rfl⟩, ⟨.isfree, by decide, fun _ => rfl, fun _ => rfl⟩⟩

/-! ### What the statements stand for (30_encoding R68) -/

theorem statementEvents_voiceOperand {row : String × Nat × (Voice → Nat → Instr)} {c : Opcode}
    (hrow : VoiceOperandRow row c) (fs : Nat) {x : List Char} {n : Nat} (hx : numberText x = some n) (v : Voice) :
    statementEvents fs row.1.toList [voiceDigit v, x] =
      if n < row.2.1 then some [.cmd (encode (row.2.2 v n))] else none := by
  rw [statementEvents_mnemonic hrow.mnemonic, hrow.word, voiceOperandWord, voiceText_voiceDigit, hrow.operand,
    numberOperand_of_number hx, ← hrow.limit]
  by_cases hn : n < row.2.1
  · simp only [if_pos hn, hrow.encoded v n hn, Option.map_some]
  · simp only [if_neg hn, Option.map_none]

/-- A voice that is no digit 0 to 3 refuses a statement with an operand. -/
theorem voiceOperandWord_of_no_voice {d : List Char} (h : ∀ v, d ≠ voiceDigit v) (c : Opcode) (x : List Char) :
    voiceOperandWord c d x = none := by
  simp only [voiceOperandWord, voiceText_of_no_digit h]

theorem statementEvents_operand {row : String × Nat × (Nat → Instr)} {c : Opcode} (hrow : OperandRow row c) (fs : Nat)
    {x : List Char} {n : Nat} (hx : numberText x = some n) : statementEvents fs row.1.toList [x] =
      if n < row.2.1 then some [.cmd (encode (row.2.2 n))] else none := by
  rw [statementEvents_mnemonic hrow.mnemonic, hrow.word, operandWord, hrow.operand, numberOperand_of_number hx,
    ← hrow.limit]
  by_cases hn : n < row.2.1
  · simp only [if_pos hn, hrow.encoded n hn, Option.map_some]
  · simp only [if_neg hn, Option.map_none]

theorem statementEvents_setoct (fs : Nat) {x : List Char} {z : Int} (hx : signedText x = some z) (v : Voice) :
    statementEvents fs "SETOCT".toList [voiceDigit v, x] =
      if -128 ≤ z ∧ z ≤ 127 then some [.cmd (encode (.setoct v (BitVec.ofInt 8 z)))] else none := by
  have hword : statementWord .setoct [voiceDigit v, x] = voiceOperandWord .setoct (voiceDigit v) x := rfl
  have hoperand : operandText .setoct x = octaveOperand x := rfl
  rw [statementEvents_mnemonic (c := .setoct) (by decide), hword, voiceOperandWord, voiceText_voiceDigit, hoperand,
    octaveOperand_of_signed hx]
  by_cases hz : -128 ≤ z ∧ z ≤ 127
  · simp only [if_pos hz, Option.map_some]
    rfl
  · simp only [if_neg hz, Option.map_none]

theorem statementEvents_voice {row : String × (Voice → Instr)} {c : Opcode} (hrow : VoiceRow row c) (fs : Nat)
    (v : Voice) : statementEvents fs row.1.toList [voiceDigit v] = some [.cmd (encode (row.2 v))] := by
  rw [statementEvents_mnemonic hrow.mnemonic, hrow.word, voiceWord, voiceText_voiceDigit, hrow.encoded]
  rfl

theorem statementEvents_bare (fs : Nat) :
    ∀ row ∈ bareStatements, statementEvents fs row.1.toList [] = some [.cmd (encode row.2)] := by
  simp only [bareStatements, List.forall_mem_cons, List.not_mem_nil, false_imp_iff, implies_true, and_true]
  exact ⟨statementEvents_mnemonic (c := .tick) (by decide) fs [],
    statementEvents_mnemonic (c := .suspend) (by decide) fs [],
    statementEvents_mnemonic (c := .resume) (by decide) fs []⟩

/-- Settles O15: the mnemonics by the shape of their rows, `SETOCT` by itself, and every written word by
`decode_statementWord`. -/
theorem assembledStatementSpellsItsCommand : Obligations.AssembledStatementSpellsItsCommand := by
  unfold Obligations.AssembledStatementSpellsItsCommand
  refine ⟨fun fs x n hx => ⟨fun row hmem => ?voiceOperand, fun row hmem => ?operand⟩, fun fs x z hx => ?octave,
    fun fs => ⟨fun row hmem => ?voice, statementEvents_bare fs⟩, fun c operands w => decode_statementWord⟩
  case voiceOperand =>
    obtain ⟨c, hrow⟩ := voiceOperandStatements_rows row hmem
    refine ⟨statementEvents_voiceOperand hrow fs hx, fun d hd => ?_⟩
    rw [statementEvents_mnemonic hrow.mnemonic, hrow.word, voiceOperandWord_of_no_voice hd, Option.map_none]
  case operand =>
    obtain ⟨c, hrow⟩ := operandStatements_rows row hmem
    exact statementEvents_operand hrow fs hx
  case octave =>
    refine ⟨statementEvents_setoct fs hx, fun d hd => ?_⟩
    have hword : statementWord .setoct [d, x] = voiceOperandWord .setoct d x := rfl
    rw [statementEvents_mnemonic (c := .setoct) (by decide), hword, voiceOperandWord_of_no_voice hd, Option.map_none]
  case voice =>
    obtain ⟨c, hrow⟩ := voiceStatements_rows row hmem
    refine ⟨statementEvents_voice hrow fs, fun d hd => ?_⟩
    rw [statementEvents_mnemonic hrow.mnemonic, hrow.word, voiceWord, voiceText_of_no_digit hd, Option.map_none,
      Option.map_none]

end Sys2Proof.Machine

namespace Sys2Proof.Machine

/-! ### Numbers as text (30_encoding R68) -/

/-- The digits of `n` in base `b`, each written with another sign of the same value, spell `n`. -/
theorem digitsFrom_map_toDigits {b : Nat} {f : Char → Char} (hb : 1 < b)
    (hf : ∀ d, d < b → digitValue b (f (Nat.digitChar d)) = some d) (n : Nat) :
    digitsFrom b ((Nat.toDigits b n).map f) 0 = some n := by
  induction n using Nat.strong_induction_on with
  | _ n ih =>
    by_cases hn : n < b
    · rw [Nat.toDigits_of_lt_base hn]
      simp only [List.map_cons, List.map_nil, digitsFrom, hf n hn, Nat.zero_mul, Nat.zero_add]
    · have hlt : n / b < n := Nat.div_lt_self (by omega) hb
      have hlast : digitValue b (f (Nat.digitChar (n % b))) = some (n % b) := hf _ (Nat.mod_lt n (by omega))
      rw [Nat.toDigits_of_base_le hb (by omega), List.map_append, digitsFrom_append, ih _ hlt]
      simp only [Option.bind_some, List.map_cons, List.map_nil, digitsFrom, hlast]
      rw [Nat.div_add_mod']

theorem digits_map_toDigits {b : Nat} {f : Char → Char} (hb : 1 < b)
    (hf : ∀ d, d < b → digitValue b (f (Nat.digitChar d)) = some d) (n : Nat) :
    digits b ((Nat.toDigits b n).map f) = some n := by
  have hne : ((Nat.toDigits b n).map f).isEmpty = false := by simp [Nat.toDigits_ne_nil]
  rw [digits, hne]
  exact digitsFrom_map_toDigits hb hf n

theorem digits_toDigits {b : Nat} (hb : 1 < b) (hb' : b ≤ 16) (n : Nat) : digits b (Nat.toDigits b n) = some n := by
  have h := digits_map_toDigits (f := id) hb (fun d hd => digitValue_digitChar hd hb') n
  rwa [List.map_id] at h

/-- Hexadecimal digits count the same in upper case. -/
theorem digits_toUpper_toDigits (n : Nat) : digits 16 ((Nat.toDigits 16 n).map Char.toUpper) = some n :=
  digits_map_toDigits (by decide) (by decide) n

/-- Text of decimal digits only is no hexadecimal number. -/
theorem numberText_of_isDigit {cs : List Char} (h : ∀ c ∈ cs, c.isDigit = true) : numberText cs = digits 10 cs := by
  unfold numberText
  split
  next rest => exact absurd (h 'x' (by simp)) (by decide)
  next => rfl

/-- Text of decimal digits only has no sign. -/
theorem signedText_of_isDigit {cs : List Char} {n : Nat} (h : ∀ c ∈ cs, c.isDigit = true) (hn : numberText cs = some n) :
    signedText cs = some (n : Int) := by
  unfold signedText
  split
  next rest => exact absurd (h '-' (by simp)) (by decide)
  next rest => exact absurd (h '−' (by simp)) (by decide)
  next rest => exact absurd (h '+' (by simp)) (by decide)
  next => rw [hn]; rfl

/-- A sign is read before a number: the hyphen, the minus sign, or `+`. -/
theorem signedText_signs {cs : List Char} {n : Nat} (hn : numberText cs = some n) :
    signedText ('-' :: cs) = some (-(n : Int)) ∧ signedText ('−' :: cs) = some (-(n : Int)) ∧
    signedText ('+' :: cs) = some (n : Int) := by
  simp only [signedText, hn]
  exact ⟨rfl, rfl, rfl⟩

theorem isDigit_toDigits_ten (n : Nat) : ∀ c ∈ Nat.toDigits 10 n, c.isDigit = true :=
  fun _ hc => Nat.isDigit_of_mem_toDigits (by decide) (by decide) hc

theorem numberText_decimal (n : Nat) : numberText (Nat.toDigits 10 n) = some n :=
  (numberText_of_isDigit (isDigit_toDigits_ten n)).trans (digits_toDigits (by decide) (by decide) n)

theorem signedText_decimal (n : Nat) : signedText (Nat.toDigits 10 n) = some (n : Int) :=
  signedText_of_isDigit (isDigit_toDigits_ten n) (numberText_decimal n)

/-! ### The point in a frequency (30_encoding R72; log 7) -/

/-- A point is no digit. -/
theorem point_not_mem_of_digitsFrom {b : Nat} (hb : b ≤ 16) {cs : List Char} :
    ∀ {a n : Nat}, digitsFrom b cs a = some n → '.' ∉ cs := by
  have hpoint : digitValue b '.' = none := if_neg (Nat.not_lt.2 hb)
  induction cs with
  | nil => simp
  | cons c cs ih =>
    intro a n h
    unfold digitsFrom at h
    split at h
    next d hd =>
      have hc : '.' ≠ c := fun hc => by rw [← hc, hpoint] at hd; cases hd
      exact List.not_mem_cons_of_ne_of_not_mem hc (ih h)
    next => cases h

theorem point_not_mem_of_digits {b : Nat} (hb : b ≤ 16) {cs : List Char} {n : Nat} (h : digits b cs = some n) :
    '.' ∉ cs := by
  unfold digits at h
  split at h
  · cases h
  · exact point_not_mem_of_digitsFrom hb h

theorem point_not_mem_of_number {cs : List Char} {n : Nat} (h : numberText cs = some n) : '.' ∉ cs := by
  unfold numberText at h
  split at h
  next rest =>
    have hrest := point_not_mem_of_digits (by decide) h
    simp [hrest]
  next => exact point_not_mem_of_digits (by decide) h

theorem sep_false_of_not_mem {k : Char} {l : List Char} (h : k ∉ l) : ∀ c ∈ l, (c == k) = false := by
  intro c hc
  rw [beq_eq_false_iff_ne]
  rintro rfl
  exact h hc

theorem frequencyText_whole {x : List Char} {n : Nat} (h : numberText x = some n) : frequencyText x = some (n, 1) := by
  rw [frequencyText, splitText_clean (sep_false_of_not_mem (point_not_mem_of_number h))]
  simp only [h, Option.map_some]

theorem frequencyText_decimal {x y : List Char} {n m : Nat} (hx : digits 10 x = some n) (hy : digits 10 y = some m) :
    frequencyText (x ++ '.' :: y) = some (n * 10 ^ y.length + m, 10 ^ y.length) := by
  have hxp := sep_false_of_not_mem (point_not_mem_of_digits (by decide) hx)
  have hyp := sep_false_of_not_mem (point_not_mem_of_digits (by decide) hy)
  rw [frequencyText, splitText_at hxp (by decide), splitText_clean hyp]
  simp only [hx, hy]

/-! ### The directives (30_encoding R68, R72) -/

theorem statementEvents_sample (fs : Nat) {x : List Char} {n : Nat} (h : numberText x = some n) :
    statementEvents fs "SAMPLE".toList [x] = if 1 ≤ n then some (List.replicate n .sample) else none := by
  simp only [statementEvents, if_true, h]

theorem statementEvents_reset (fs : Nat) : statementEvents fs "RESET".toList [] = some [.reset] := rfl

theorem statementEvents_setpitchf (fs : Nat) (v : Voice) {f : List Char} {num den : Nat}
    (h : frequencyText f = some (num, den)) : statementEvents fs "SETPITCHF".toList [voiceDigit v, f] =
      some [.cmd (encode (setpitchfAt fs v num den))] := by
  have hsample : "SETPITCHF".toList ≠ "SAMPLE".toList := by decide
  have hreset : "SETPITCHF".toList ≠ "RESET".toList := by decide
  simp only [statementEvents, if_neg hsample, if_neg hreset, if_true, voiceText_voiceDigit, h]

/-- Every non-negative quotient has one floor, so `SETPITCHF` has one expansion. -/
theorem setpitchf_expands_unique {fs f : ℝ} (hfs : 0 < fs) (hf : 0 ≤ f) (v : Voice) :
    ∃! i, SetpitchfExpands fs v f i := by
  have hq : 0 ≤ f * 65536 / fs := by positivity
  refine ⟨_, ⟨⌊f * 65536 / fs⌋₊, Nat.floor_le hq, Nat.lt_floor_add_one _, rfl⟩, ?_⟩
  rintro i ⟨n, hle, hlt, rfl⟩
  rw [(Nat.floor_eq_iff hq).2 ⟨hle, hlt⟩]

/-- Settles O60: the expansion is unique by the floor, and the assembler's fraction expands to its own word by
`setpitchfAt_expands`. -/
theorem directivesStandForTheirEvents : Obligations.DirectivesStandForTheirEvents := by
  unfold Obligations.DirectivesStandForTheirEvents
  refine ⟨fun fs x n => statementEvents_sample fs, statementEvents_reset, fun fs f v hfs hf =>
    setpitchf_expands_unique hfs hf v, fun fs v x n hfs hx => ?whole, fun fs v x y n m hfs hx hy => ?decimal⟩
  case whole =>
    have hexpands := setpitchfAt_expands hfs Nat.one_pos v n
    rw [Nat.cast_one, div_one] at hexpands
    exact ⟨_, hexpands, statementEvents_setpitchf fs v (frequencyText_whole hx), by rw [setpitchfAt, Nat.one_mul]⟩
  case decimal =>
    have hpos : 0 < 10 ^ y.length := Nat.pow_pos (by decide)
    have hexpands := setpitchfAt_expands hfs hpos v (n * 10 ^ y.length + m)
    have hfrequency : ((n * 10 ^ y.length + m : Nat) / (10 ^ y.length : Nat) : ℝ) = n + m / 10 ^ y.length := by
      push_cast
      field_simp
    rw [hfrequency] at hexpands
    exact ⟨_, hexpands, statementEvents_setpitchf fs v (frequencyText_decimal hx hy), rfl⟩

/-! ### Lines and scripts (30_encoding R68) -/

/-- The text from a semicolon on is no part of a line. -/
theorem assembleLine_comment {l : List Char} (h : ';' ∉ l) (fs : Nat) (comment : List Char) :
    assembleLine fs (l ++ ';' :: comment) = assembleLine fs l := by
  have hl : ∀ c ∈ l, (c != ';') = true := fun c hc => by
    rw [bne, sep_false_of_not_mem h c hc]; rfl
  have hcut : (l ++ ';' :: comment).takeWhile (· != ';') = l.takeWhile (· != ';') := by
    rw [List.takeWhile_append_of_pos hl, List.takeWhile_eq_self_iff.2 hl, List.takeWhile_cons_of_neg (by decide),
      List.append_nil]
  rw [assembleLine, hcut]
  rfl

/-- What part text starts and ends with, and what it leaves out. -/
theorem partText_spec {x : List Char} (h : partText x) : (∀ c ∈ x, isBlank c = false) ∧ ';' ∉ x ∧ ',' ∉ x := by
  obtain ⟨-, hx⟩ := h
  refine ⟨fun c hc => ?_, fun hc => hx _ hc (by simp), fun hc => hx _ hc (by simp)⟩
  have hc' := hx c hc
  simp only [List.mem_cons, List.not_mem_nil, or_false, not_or] at hc'
  obtain ⟨hspace, htab, hreturn, -⟩ := hc'
  simp [isBlank, hspace, htab, hreturn]

/-- Text that ends in a part ends in no blank. -/
theorem getLast?_not_blank {x : List Char} (hx : partText x) (l : List Char) :
    ∀ c, (l ++ x).getLast? = some c → isBlank c = false := by
  intro c hc
  rw [List.getLast?_append_of_ne_nil l hx.1] at hc
  exact (partText_spec hx).1 c (List.mem_of_getLast? hc)

/-- Text that starts with a part starts with no blank. -/
theorem head?_not_blank {x : List Char} (hx : partText x) (l : List Char) :
    ∀ c, (x ++ l).head? = some c → isBlank c = false := by
  intro c hc
  rw [List.head?_append_of_ne_nil x hx.1] at hc
  exact (partText_spec hx).1 c (List.mem_of_head? hc)

theorem trimText_part {x : List Char} (hx : partText x) : trimText x = x :=
  trimText_of_ends (by simpa using head?_not_blank hx []) (by simpa using getLast?_not_blank hx [])

/-- A line is its first word and, from the first blank on, its operands. -/
theorem assembleLine_statement {name rest : List Char} (fs : Nat) (hname : partText name) (hsemi : ';' ∉ rest)
    (hblank : ∀ c, rest.head? = some c → isBlank c = true)
    (hlast : ∀ c, (name ++ rest).getLast? = some c → isBlank c = false) :
    assembleLine fs (name ++ rest) = statementEvents fs name (operandTexts rest) := by
  obtain ⟨hwhite, hsemi', -⟩ := partText_spec hname
  have hline : (name ++ rest).takeWhile (· != ';') = name ++ rest := by
    rw [List.takeWhile_eq_self_iff]
    intro c hc
    rw [bne, sep_false_of_not_mem (by simp [hsemi, hsemi']) c hc]; rfl
  have htrim : trimText (name ++ rest) = name ++ rest := trimText_of_ends (head?_not_blank hname rest) hlast
  have hne : (name ++ rest).isEmpty = false := by simp [hname.1]
  have hword : (name ++ rest).takeWhile (fun c => !isBlank c) = name := by
    rw [List.takeWhile_append_of_pos (fun c hc => by rw [hwhite c hc]; rfl)]
    cases rest with
    | nil => simp
    | cons c rest => simp [hblank c rfl]
  simp only [assembleLine, hline, htrim, hne, hword, List.drop_left]
  rfl

theorem operandTexts_one {x : List Char} (hx : partText x) : operandTexts (' ' :: x) = [x] := by
  obtain ⟨-, -, hcomma⟩ := partText_spec hx
  have hne : x.isEmpty = false := by simp [hx.1]
  have hclean : ∀ c ∈ ' ' :: x, (c == ',') = false := sep_false_of_not_mem (by simp [hcomma])
  rw [operandTexts, trimText_space, trimText_part hx, hne, splitText_clean hclean]
  simp [trimText_part hx]

theorem operandTexts_two {x y : List Char} (hx : partText x) (hy : partText y) :
    operandTexts (' ' :: x ++ ',' :: ' ' :: y) = [x, y] := by
  obtain ⟨-, -, hxcomma⟩ := partText_spec hx
  obtain ⟨-, -, hycomma⟩ := partText_spec hy
  have htrim : trimText (x ++ ',' :: ' ' :: y) = x ++ ',' :: ' ' :: y :=
    trimText_of_ends (head?_not_blank hx _) (by simpa using getLast?_not_blank hy (x ++ [',', ' ']))
  have hfirst : ∀ c ∈ ' ' :: x, (c == ',') = false := sep_false_of_not_mem (by simp [hxcomma])
  have hsecond : ∀ c ∈ ' ' :: y, (c == ',') = false := sep_false_of_not_mem (by simp [hycomma])
  rw [operandTexts, splitText_at hfirst (by decide), splitText_clean hsecond, List.cons_append, trimText_space, htrim]
  simp [trimText_part hx, trimText_part hy]

section
variable {name x y : List Char} (fs : Nat) (hname : partText name) (hx : partText x) (hy : partText y)
include hname

theorem assembleLine_bare : assembleLine fs name = statementEvents fs name [] := by
  have h := assembleLine_statement (rest := []) fs hname (by simp) (by simp)
    (by simpa using getLast?_not_blank hname [])
  rwa [List.append_nil] at h

include hx

theorem assembleLine_one : assembleLine fs (name ++ ' ' :: x) = statementEvents fs name [x] := by
  obtain ⟨-, hsemi, -⟩ := partText_spec hx
  rw [assembleLine_statement fs hname (by simp [hsemi]) (by simp [isBlank])
    (by simpa using getLast?_not_blank hx (name ++ [' '])), operandTexts_one hx]

include hy

theorem assembleLine_two :
    assembleLine fs (name ++ ' ' :: x ++ ',' :: ' ' :: y) = statementEvents fs name [x, y] := by
  obtain ⟨-, hxsemi, -⟩ := partText_spec hx
  obtain ⟨-, hysemi, -⟩ := partText_spec hy
  rw [List.append_assoc, assembleLine_statement fs hname (by simp [hxsemi, hysemi]) (by simp [isBlank])
    (by simpa using getLast?_not_blank hy (name ++ ' ' :: x ++ [',', ' '])), operandTexts_two hx hy]

end

/-- A script is its first line and the script of the others. -/
theorem assembleScript_line {line : List Char} {a b : List Event} (fs : Nat) (rest : List Char) (hline : '\n' ∉ line)
    (ha : assembleLine fs line = some a) (hb : assembleScript fs rest = some b) :
    assembleScript fs (line ++ '\n' :: rest) = some (a ++ b) := by
  rw [assembleScript] at hb
  rw [assembleScript, splitText_at (sep_false_of_not_mem hline) (by decide)]
  simp only [assembleLines, ha, hb]

/-- Settles O59: each line with its comment is the line without it, and that one its mnemonic and operands; the numbers
by their digits. -/
theorem linesAndNumbersAreReadAsWritten : Obligations.LinesAndNumbersAreReadAsWritten := by
  unfold Obligations.LinesAndNumbersAreReadAsWritten
  refine ⟨fun fs name x y comment hname hx hy => ?lines, fun fs line rest a b hline ha hb =>
    assembleScript_line fs rest hline ha hb, fun n => ?numbers⟩
  case lines =>
    obtain ⟨-, hn, -⟩ := partText_spec hname
    obtain ⟨-, hxsemi, -⟩ := partText_spec hx
    obtain ⟨-, hysemi, -⟩ := partText_spec hy
    have htwo := assembleLine_two fs hname hx hy
    have hone := assembleLine_one fs hname hx
    have hbare := assembleLine_bare fs hname
    refine ⟨?_, htwo, ?_, hone, ?_, hbare, rfl⟩
    · rw [assembleLine_comment (by simp [hn, hxsemi, hysemi]), htwo]
    · rw [assembleLine_comment (by simp [hn, hxsemi]), hone]
    · rw [assembleLine_comment hn, hbare]
  case numbers =>
    have hdecimal := numberText_decimal n
    exact ⟨hdecimal, digits_toDigits (by decide) (by decide) n, digits_toUpper_toDigits n, signedText_decimal n,
      signedText_signs hdecimal⟩

end Sys2Proof.Machine
